-- ==== Sys2Proof/Word.lean ====
section
/-! DEFINITION. The fixed-width unsigned values of `00_scope.md` rule R9: no quantity of SRX is signed. -/

namespace Sys2Proof

/-- `u8`: a received byte, an entry of the frame buffer, the declared length, a channel index. -/
abbrev Byte := BitVec 8

/-- `u16`: a raw channel value, a decoded channel value, a checksum (R9). -/
abbrev Word := BitVec 16

/-- `uCNT_W` with `CNT_W = 32` (`00_scope.md` rule R7): a diagnostic counter, counting modulo `2^32`. -/
abbrev Counter := BitVec 32

end Sys2Proof
end

