-- ==== Sys2Proof/Config.lean ====
section
/-! DEFINITION. The implementation parameters of `00_scope.md` rule R7.

The parameters R7 leaves OPEN are the fields of `Config`; those it fixes for this hardware are constants (log
entry 20).
A statement that holds for every state holds for every configuration, because `State` carries its own (log entry 1). -/

namespace Sys2Proof

/-- The OPEN parameters of R7. `TIME_UNIT` is left out: no rule depends on it (log entry 17). -/
structure Config where
  /-- `MAX_PAYLOAD`, the largest declared payload length accepted, in bytes. -/
  maxPayload : Nat
  /-- `MAX_CHANNELS`, the number of entries of the channel array. -/
  maxChannels : Nat
  /-- `STALE_THRESHOLD`, the watchdog's threshold, in time units. -/
  staleThreshold : Nat
  /-- `TIME_W`, the width in bits of every timestamp. -/
  timeW : Nat
  /-- `CH_RESET_VALUE`, the value of every channel entry after reset. -/
  chResetValue : Word
  deriving DecidableEq, Repr

/-- `SYNC_BYTE`, the byte value that starts a frame: `0xA8` for this hardware (R7). -/
def syncByte : Byte := 0xA8#8

/-- `FAILSAFE_MASK`, the status bit that marks a failsafe frame: bit 7 for this hardware (R7). -/
def failsafeMask : Byte := 0x80#8

/-- `CRC_POLY` (R7, fixed). -/
def crcPoly : Word := 0x1021#16

/-- `CRC_INIT` (R7, fixed). -/
def crcInit : Word := 0x0000#16

/-- `CH_DIVISOR`, the raw-to-microsecond divisor (R7: "8 (fixed, not a parameter)"). -/
def chDivisor : Nat := 8

namespace Config

/-- `BUF_CAP = 5 + MAX_PAYLOAD`, the frame buffer's capacity in bytes (`10_state.md` rule R24). -/
def bufCap (c : Config) : Nat := 5 + c.maxPayload

/-- What the buffer entry at an address holds while no byte was stored in it since the latest reset: a FREE VALUE
(`10_state.md` rule R41, "unspecified"; `93_implementation_defined.md` I3, "any value"; log entry 5). The first argument
numbers the resets, so each reset leaves contents of its own. -/
opaque bufferByte : Nat → Nat → Byte

/-- The number of distinct timestamps, `2^TIME_W`. -/
def timeSpan (c : Config) : Nat := 2 ^ c.timeW

/-- The ranges R7 gives the OPEN parameters. -/
abbrev Valid (c : Config) : Prop :=
  c.maxPayload ≤ 255 ∧ 1 ≤ c.maxChannels ∧ c.maxChannels ≤ 255 ∧ 1 ≤ c.timeW ∧ c.staleThreshold < c.timeSpan

/-- The test configuration TC of `00_scope.md` rule R8 ("not a property of the hardware"). -/
def tc : Config :=
  { maxPayload := 32, maxChannels := 16, staleThreshold := 30, timeW := 32, chResetValue := 0x0000#16 }

/-- The test configuration TC4 of R8: TC with `MAX_CHANNELS = 4`. -/
def tc4 : Config := { tc with maxChannels := 4 }

end Config

end Sys2Proof
end

