-- ==== Sys2Proof/Syntax.lean ====
section
/-! DEFINITION. The operations of SRX: one constructor for each row of `spec/opcode_table.json`.

BYTE, POLL, READ and INIT are the four operations the environment presents (`30_encoding.md` rule R73).
The `BYTE.*`, `POLL.*` and `READ.*` rows are their cases (R76, R170, R177): a case shares its operation's command word,
and the state decides which case applies. CRC16.STEP and PUBLISH are internal: no command word selects them (log
entry 8). -/

namespace Sys2Proof

/-- One operation or case. A time operand is the value on the `TIME_W`-bit time port, as a natural number (log entry 2). -/
inductive Instr where
  /-- BYTE (R130): byte `b`, arrival time `t`. -/
  | byte (b : Byte) (t : Nat)
  /-- BYTE.SYNC (R120): the row fixes `b = SYNC_BYTE`. -/
  | byteSync (t : Nat)
  /-- BYTE.DROP (R121). -/
  | byteDrop (b : Byte) (t : Nat)
  /-- BYTE.STATUS (R122). -/
  | byteStatus (b : Byte) (t : Nat)
  /-- BYTE.LEN_BAD (R123). -/
  | byteLenBad (b : Byte) (t : Nat)
  /-- BYTE.LEN (R124). -/
  | byteLen (b : Byte) (t : Nat)
  /-- BYTE.LEN0 (R125): the row fixes `b = 0`. -/
  | byteLen0 (t : Nat)
  /-- BYTE.PAY (R126). -/
  | bytePay (b : Byte) (t : Nat)
  /-- BYTE.CK_HI (R127). -/
  | byteCkHi (b : Byte) (t : Nat)
  /-- BYTE.CK_LO (R128). -/
  | byteCkLo (b : Byte) (t : Nat)
  /-- POLL (R170): current time `now`. -/
  | poll (now : Nat)
  /-- POLL.REPORT (R171). -/
  | pollReport (now : Nat)
  /-- POLL.STALE (R172). -/
  | pollStale (now : Nat)
  /-- POLL.IDLE (R173). -/
  | pollIdle (now : Nat)
  /-- READ (R177): channel index `i`. -/
  | read (i : Byte)
  /-- READ.OK (R177). -/
  | readOk (i : Byte)
  /-- READ.BAD (R177). -/
  | readBad (i : Byte)
  /-- INIT (R179). `attached` is the input `src_attached` that the environment presents with it (R180; log entry 18). -/
  | init (attached : Bool)
  /-- CRC16.STEP (R100), internal. -/
  | crc16Step (acc : Word) (b : Byte)
  /-- PUBLISH (R155), internal. -/
  | publish
  deriving DecidableEq, Repr

/-- The operation whose command word the row is: a case shares its operation's word, an internal row has none (R73, R76). -/
def Instr.presented : Instr → Option Instr
  | .byte b t => some (.byte b t)
  | .byteSync t => some (.byte syncByte t)
  | .byteDrop b t => some (.byte b t)
  | .byteStatus b t => some (.byte b t)
  | .byteLenBad b t => some (.byte b t)
  | .byteLen b t => some (.byte b t)
  | .byteLen0 t => some (.byte 0#8 t)
  | .bytePay b t => some (.byte b t)
  | .byteCkHi b t => some (.byte b t)
  | .byteCkLo b t => some (.byte b t)
  | .poll now => some (.poll now)
  | .pollReport now => some (.poll now)
  | .pollStale now => some (.poll now)
  | .pollIdle now => some (.poll now)
  | .read i => some (.read i)
  | .readOk i => some (.read i)
  | .readBad i => some (.read i)
  | .init attached => some (.init attached)
  | .crc16Step _ _ => none
  | .publish => none

/-- Whether the row is a case of BYTE, POLL or READ (`30_encoding.md` rule R76, `43_status_watchdog.md` R170, R177). -/
def Instr.isCase : Instr → Bool
  | .byteSync _ | .byteDrop _ _ | .byteStatus _ _ | .byteLenBad _ _ | .byteLen _ _ | .byteLen0 _ => true
  | .bytePay _ _ | .byteCkHi _ _ | .byteCkLo _ _ => true
  | .pollReport _ | .pollStale _ | .pollIdle _ => true
  | .readOk _ | .readBad _ => true
  | .byte _ _ | .poll _ | .read _ | .init _ | .crc16Step _ _ | .publish => false

/-- What the environment presents for one operation: the command word `cw` and the time operand `T` of R73,
and the 1-bit input `src_attached` that goes with an INIT (R180). -/
structure Request where
  cw : BitVec 16
  time : Nat
  attached : Bool
  deriving DecidableEq, Repr

/-- Why a command word is refused (`30_encoding.md` rule R78). -/
inductive DecodeReject where
  /-- One of bits `[15:10]` is set. -/
  | reservedBits
  /-- A POLL or INIT word with `arg != 0`. -/
  | argNotZero
  deriving DecidableEq, Repr

end Sys2Proof
end

