-- ==== Sys2Proof/WellFormed.lean ====
section
/-! DEFINITION. Which terms of `Instr` stand for a row of the opcode table under a configuration: the operand part of the
row's condition (the state part is `Machine.rowApplies`), and the width of the time port. -/

namespace Sys2Proof

/-- A time operand fits the `TIME_W`-bit port (`30_encoding.md` rule R73). -/
def timeFits (c : Config) (t : Nat) : Bool := decide (t < c.timeSpan)

/-- The operand conditions of the opcode table's rows (R76, R177). -/
def Instr.wf (c : Config) : Instr → Bool
  | .byte _ t => timeFits c t
  | .byteSync t => timeFits c t
  | .byteDrop b t => decide (b ≠ syncByte) && timeFits c t
  | .byteStatus _ t => timeFits c t
  | .byteLenBad b t => decide (c.maxPayload < b.toNat) && timeFits c t
  | .byteLen b t => decide (1 ≤ b.toNat) && decide (b.toNat ≤ c.maxPayload) && timeFits c t
  | .byteLen0 t => timeFits c t
  | .bytePay _ t => timeFits c t
  | .byteCkHi _ t => timeFits c t
  | .byteCkLo _ t => timeFits c t
  | .poll now => timeFits c now
  | .pollReport now => timeFits c now
  | .pollStale now => timeFits c now
  | .pollIdle now => timeFits c now
  | .read _ => true
  | .readOk i => decide (i.toNat < c.maxChannels)
  | .readBad i => decide (c.maxChannels ≤ i.toNat)
  | .init _ => true
  | .crc16Step _ _ => true
  | .publish => true

end Sys2Proof
end

