-- ==== Sys2Proof/Decode.lean ====
section
/-! DEFINITION. The command word of `30_encoding.md` rule R73: the decoder, total on every request and rejecting by name
(R78), and the encoder after it.

The decoder answers one of the four operations. Which CASE of the operation applies is decided by the state (R76), so it
is no part of decoding: it is `Machine.rowApplies`. -/

namespace Sys2Proof

/-- `op = cw[1:0]` (R73). -/
def opField (cw : BitVec 16) : BitVec 2 := cw.extractLsb' 0 2

/-- `arg = cw[9:2]` (R73). -/
def argField (cw : BitVec 16) : Byte := cw.extractLsb' 2 8

/-- The reserved bits `cw[15:10]` (R73). -/
def reservedField (cw : BitVec 16) : BitVec 6 := cw.extractLsb' 10 6

/-- Decode one presented operation (R73), refusing the words of R78. -/
def decode (r : Request) : Except DecodeReject Instr :=
  if reservedField r.cw ≠ 0#6 then .error .reservedBits
  else if opField r.cw = 0#2 then .ok (.byte (argField r.cw) r.time)
  else if opField r.cw = 1#2 then
    if argField r.cw = 0#8 then .ok (.poll r.time) else .error .argNotZero
  else if opField r.cw = 2#2 then .ok (.read (argField r.cw))
  else if argField r.cw = 0#8 then .ok (.init r.attached)
  else .error .argNotZero

/-- The request that the table's bits stand for: bits `[15:0]` are `cw`, the bits above it the time operand `T`, and
everything above `nbits` is 0, the `src_attached` input included (log entry 14). -/
def Request.ofTableWord (nbits w : Nat) : Request :=
  { cw := BitVec.ofNat 16 (w % 2 ^ nbits), time := w % 2 ^ nbits / 2 ^ 16, attached := false }

/-- The instruction the decoder reads from a word of `nbits` bits numbered as `spec/opcode_table.json` numbers them. -/
def decodeTableWord (nbits w : Nat) : Option Instr :=
  match decode (Request.ofTableWord nbits w) with
  | .ok i => some i
  | .error _ => none

/-- A command word from its fields, the reserved bits 0 (R73). -/
def commandWord (op : BitVec 2) (arg : Byte) : BitVec 16 := 0#6 ++ arg ++ op

/-- The request that presents a row of the opcode table. A field the operation ignores is 0, and an internal row has no
command word. -/
def encode : Instr → Option Request
  | .byte b t => some { cw := commandWord 0#2 b, time := t, attached := false }
  | .byteSync t => some { cw := 0x02A0#16, time := t, attached := false }
  | .byteDrop b t => some { cw := commandWord 0#2 b, time := t, attached := false }
  | .byteStatus b t => some { cw := commandWord 0#2 b, time := t, attached := false }
  | .byteLenBad b t => some { cw := commandWord 0#2 b, time := t, attached := false }
  | .byteLen b t => some { cw := commandWord 0#2 b, time := t, attached := false }
  | .byteLen0 t => some { cw := 0x0000#16, time := t, attached := false }
  | .bytePay b t => some { cw := commandWord 0#2 b, time := t, attached := false }
  | .byteCkHi b t => some { cw := commandWord 0#2 b, time := t, attached := false }
  | .byteCkLo b t => some { cw := commandWord 0#2 b, time := t, attached := false }
  | .poll now => some { cw := 0x0001#16, time := now, attached := false }
  | .pollReport now => some { cw := 0x0001#16, time := now, attached := false }
  | .pollStale now => some { cw := 0x0001#16, time := now, attached := false }
  | .pollIdle now => some { cw := 0x0001#16, time := now, attached := false }
  | .read i => some { cw := commandWord 2#2 i, time := 0, attached := false }
  | .readOk i => some { cw := commandWord 2#2 i, time := 0, attached := false }
  | .readBad i => some { cw := commandWord 2#2 i, time := 0, attached := false }
  | .init attached => some { cw := 0x0003#16, time := 0, attached := attached }
  | .crc16Step _ _ => none
  | .publish => none

end Sys2Proof
end

