-- ==== Sys2Proof/Machine/State.lean ====
section
/-! DEFINITION. The state of one SRX (`10_state.md` rule R20), the configuration it runs under, the inputs its two agents
present, and the result of its latest operation; the reasons a step can stop; the state after reset (R41). -/

namespace Sys2Proof.Machine

/-- `s.state` (R21). -/
inductive DecoderState where
  | awaitingSync
  | readingStatus
  | readingLength
  | readingPayload
  | readingChecksum
  deriving DecidableEq, Repr

/-- `s.pub` and the POLL status (R31, `30_encoding.md` rule R75). -/
inductive PublishState where
  | nothingNew
  | complete
  | completeWithFailsafe
  deriving DecidableEq, Repr

/-- The diagnostic event every operation returns (`30_encoding.md` rule R77). -/
inductive Evt where
  | none
  | syncMiss
  | lenOversize
  | crcMismatch
  | staleAbort
  | indexRange
  | frameOk
  deriving DecidableEq, Repr

/-- The result record an operation returns (`30_encoding.md` rule R74). -/
inductive Result where
  /-- No operation has returned a result since the last hardware reset. -/
  | none
  | byte (evt : Evt)
  | poll (status : PublishState) (evt : Evt)
  | read (err : Bool) (data : Word) (evt : Evt)
  | init (ok : Bool) (evt : Evt)
  /-- The value of the internal CRC16.STEP (`40_checksum.md` rule R100). -/
  | crc (acc : Word)
  deriving DecidableEq, Repr

/-- Whose turn it is in the total order of `20_memory.md` rule R56: an agent that presents its oldest operation (R57),
or the hardware reset (`70_reset_and_hazards.md` rule R230). -/
inductive Turn where
  | producer
  | consumer
  | initializer
  | hardwareReset
  deriving DecidableEq, Repr

/-- The environment's inputs: what each agent presents, in its own order (`60_exceptions.md` rule R212), and the order in
which the agents' turns come (R57: any order). The model's own (log entry 4). -/
structure Env where
  producer : List Request
  consumer : List Request
  initializer : List Request
  turns : List Turn
  deriving DecidableEq, Repr

/-- What happens next in the total order of `20_memory.md` rule R56. -/
inductive Event where
  /-- No operation is presented. -/
  | idle
  /-- Hardware reset (R230). -/
  | hardwareReset
  /-- An agent presents an operation. -/
  | request (r : Request)
  deriving DecidableEq, Repr

/-- The frame buffer's contents: address and byte, addresses strictly rising. An address that is not listed was not
written since the latest reset and holds a free value, `Config.bufferByte` (R41; log entry 5). -/
abbrev Memory := List Host.Cell

/-- The whole state. The fields from `state` to `crcErr` are the record of `10_state.md` rule R20. -/
structure State where
  /-- The configuration (`00_scope.md` rule R7), which nothing writes (log entry 1). -/
  cfg : Config
  /-- Decoder State (R21). -/
  state : DecoderState
  /-- Frame Buffer (R23). -/
  buf : Memory
  /-- Number of bytes of the current frame stored, and the index of the next one (R25), at most `BUF_CAP` (log entry 16). -/
  idx : Nat
  /-- The declared payload length (R26). -/
  len : Byte
  /-- Last-Byte Timestamp (R27), below `2^TIME_W`. -/
  lastT : Nat
  /-- The published channel values (R28), `MAX_CHANNELS` of them. -/
  ch : List Word
  /-- isFailsafe of the snapshot (R29). -/
  fs : Bool
  /-- isValid of the snapshot (R30). -/
  valid : Bool
  /-- Publish State (R31). -/
  pub : PublishState
  /-- Oversized-length aborts counted (R32; log entry 12). -/
  lenErr : Counter
  /-- Checksum mismatches counted (R32; log entry 12). -/
  crcErr : Counter
  /-- Whether a hardware reset or INIT has happened (`70_reset_and_hazards.md` rule R231). The model's own (log entry 6). -/
  booted : Bool
  /-- The number of resets so far: the argument of the free value that an unwritten buffer entry holds. The model's own
  (log entry 5). -/
  bufDraw : Nat
  /-- The result of the latest operation (R74). The model's own (log entry 3). -/
  out : Result
  /-- The environment's inputs. The model's own (log entry 4). -/
  env : Env
  deriving DecidableEq, Repr

/-- Why the machine stops. No reachable state raises one: each is a stop on a state that breaks `10_state.md` rule R38. -/
inductive Fault where
  /-- `memRead` or `memWrite` at `addr >= BUF_CAP` (`20_memory.md` rule R52 allows the fault). Safe: no execution reaches it
  (log entry 11). -/
  | bufferRange (addr : Nat)
  /-- `readPort` finds fewer than `MAX_CHANNELS` entries in `ch` (R28 gives it exactly that many). Safe: no execution
  reaches it (log entry 11). -/
  | channelAbsent (index : Nat)
  deriving DecidableEq, Repr

/-- Why an operation is given no meaning. -/
inductive Refusal where
  /-- Raised by `exec` for an instruction that has no meaning yet. Safe. -/
  | notModelled (mnemonic : String)
  /-- Raised by `step` for a command word that `30_encoding.md` rule R78 refuses. Safe. -/
  | reservedWord (why : DecodeReject)
  /-- Raised by BYTE, POLL, READ, their cases and PUBLISH before the first hardware reset or INIT (R231). Safe. -/
  | beforeFirstReset
  /-- Raised by a case row whose condition does not hold (R76): the operation is then another row's case. Safe; `step`
  never raises it, because a command word is decoded to the whole operation (log entry 7). -/
  | rowNotSelected
  deriving DecidableEq, Repr

/-- The state right after reset under the configuration `c` (R41), with no operation presented. All values but that of
`state` are the spec's own choice (decisions D13 and D18; log entry 9). -/
def State.resetFor (c : Config) : State :=
  { cfg := c
    state := .awaitingSync
    buf := []
    idx := 0
    len := 0#8
    lastT := 0
    ch := List.replicate c.maxChannels c.chResetValue
    fs := false
    valid := false
    pub := .nothingNew
    lenErr := 0#32
    crcErr := 0#32
    booted := true
    bufDraw := 0
    out := .none
    env := { producer := [], consumer := [], initializer := [], turns := [] } }

/-- The state right after reset, under the test configuration TC (R8; log entry 1: the configuration is a parameter the
spec leaves OPEN, and every statement is made for all of them). -/
def State.reset : State := State.resetFor Config.tc

end Sys2Proof.Machine
end

