-- ==== Sys2Proof/Machine/Flags.lean ====
section
/-! DEFINITION. The status SRX keeps: the failsafe classification, the publish state, the two diagnostic counters, and the
codes of `30_encoding.md` rules R75 and R77 and `10_state.md` rule R21. -/

namespace Sys2Proof.Machine

/-- `failsafe = (status & FAILSAFE_MASK) != 0` (`42_channel_decoder.md` rule R154). R154 contradicts itself for the status
`0xA8`, which its list calls normal and its formula failsafe: the model follows the formula, as R155, R72 and test vector
FC4 do. DEDUCED, the model's choice (log entry 21). -/
def failsafe (status : Byte) : Bool := decide (status &&& failsafeMask ≠ 0#8)

/-- The publish state a valid frame sets (`42_channel_decoder.md` rule R155). -/
def publishedStatus (f : Bool) : PublishState := if f then .completeWithFailsafe else .complete

/-- A diagnostic counter counts one event, modulo `2^CNT_W` (`10_state.md` rule R32). -/
def countOne (n : Counter) : Counter := n + 1#32

/-- The 3-bit code of the decoder state (R21). -/
def DecoderState.code : DecoderState → BitVec 3
  | .awaitingSync => 0#3
  | .readingStatus => 1#3
  | .readingLength => 2#3
  | .readingPayload => 3#3
  | .readingChecksum => 4#3

/-- The 2-bit code of the publish state and of the POLL status (R75). -/
def PublishState.code : PublishState → BitVec 2
  | .nothingNew => 0#2
  | .complete => 1#2
  | .completeWithFailsafe => 2#2

/-- The publish state a 2-bit code stands for: code `11` is reserved, and a state holding it is ill-formed (R75). -/
def PublishState.ofCode (c : BitVec 2) : Option PublishState :=
  if c = 0#2 then some .nothingNew
  else if c = 1#2 then some .complete
  else if c = 2#2 then some .completeWithFailsafe
  else none

/-- The 3-bit `evt` code (R77). -/
def Evt.code : Evt → BitVec 3
  | .none => 0#3
  | .syncMiss => 1#3
  | .lenOversize => 2#3
  | .crcMismatch => 3#3
  | .staleAbort => 4#3
  | .indexRange => 5#3
  | .frameOk => 6#3

/-- The `evt` of a result record: every operation returns one (R74, R77). The internal CRC16.STEP returns none. -/
def Result.evt : Result → Option Evt
  | .none => Option.none
  | .byte e => some e
  | .poll _ e => some e
  | .read _ _ e => some e
  | .init _ e => some e
  | .crc _ => Option.none

end Sys2Proof.Machine
end

