-- ==== Sys2Proof/Machine/Operands.lean ====
section
/-! DEFINITION. The values an operation computes from its operands and from bytes: big-endian assembly, the channel
conversion, the time difference. None of them is signed (`00_scope.md` rule R9). -/

namespace Sys2Proof.Machine

/-- `be16(h, l) = h ++ l` (R9; `20_memory.md` rule R53). -/
def be16 (h l : Byte) : Word := h ++ l

/-- `v[15:8]` (`30_encoding.md` rule R80). -/
def hiByte (v : Word) : Byte := v.extractLsb' 8 8

/-- `v[7:0]` (R80). -/
def loByte (v : Word) : Byte := v.extractLsb' 0 8

/-- The raw values of a payload, two bytes each, high byte first; a byte left over is in no channel
(`20_memory.md` rule R54, `42_channel_decoder.md` rules R151 and R158). -/
def rawValues : List Byte → List Word
  | h :: l :: rest => be16 h l :: rawValues rest
  | _ => []

/-- `us = raw div 8` (`42_channel_decoder.md` rule R152): no rounding, no clamping, no offset. -/
def microseconds (raw : Word) : Word := BitVec.ofNat 16 (raw.toNat / chDivisor)

/-- `n = min(L div 2, MAX_CHANNELS)` (`42_channel_decoder.md` rule R151). -/
def channelsDecoded (c : Config) (len : Byte) : Nat := min (len.toNat / 2) c.maxChannels

/-- The `TIME_W` wires of the time port: a time operand as the timestamp register takes it. -/
def portTime (c : Config) (t : Nat) : Nat := t % c.timeSpan

/-- `elapsed = (now - last_t) mod 2^TIME_W` (`43_status_watchdog.md` rule R174), a `TIME_W`-bit unsigned difference. -/
def elapsed (c : Config) (now last : Nat) : Nat := (BitVec.ofNat c.timeW now - BitVec.ofNat c.timeW last).toNat

end Sys2Proof.Machine
end

