-- ==== Sys2Proof/Machine/Ops.lean ====
section
/-! DEFINITION. The operations that every meaning is written over: the frame buffer, the storing of an accepted byte, the
result record, the guards of `70_reset_and_hazards.md` rule R231 and `30_encoding.md` rule R76, reset, and the presenting of
operations by the agents.

SRX has no trap (`60_exceptions.md` rules R200, R207, R208): there is no exception entry and no return to model. -/

namespace Sys2Proof.Machine

/-- What one operation answers. -/
abbrev Answer := Host.Outcome State Fault Refusal

/-! ## The frame buffer (`20_memory.md` rules R50 to R52) -/

/-- The byte stored at `a`, or none where no byte was stored since the latest reset. -/
def Memory.read : Memory → Nat → Option Byte
  | [], _ => none
  | (k, v) :: m, a => if a = k then some v else Memory.read m a

/-- Store `v` at `a`, keeping the addresses strictly rising. -/
def Memory.write : Memory → Nat → Byte → Memory
  | [], a, v => [(a, v)]
  | (k, w) :: m, a, v =>
    if a < k then (a, v) :: (k, w) :: m
    else if a = k then (a, v) :: m
    else (k, w) :: Memory.write m a v

/-- The canonical form: addresses strictly rising. An unlisted address holds a free value, which is no byte that could be
compared with an entry, so every entry stays listed. -/
abbrev Memory.wf (m : Memory) : Prop := m.Pairwise (fun p q => p.1 < q.1)

/-- `s.buf[a]`: the byte stored there, or the free value the entry holds while none is (R41; log entry 5). -/
def byteAt (s : State) (a : Nat) : Byte := (s.buf.read a).getD (Config.bufferByte s.bufDraw a)

/-- `MemRead(a, 1)` (R52). -/
def memRead (s : State) (a : Nat) : Except Fault Byte :=
  if a < s.cfg.bufCap then .ok (byteAt s a) else .error (.bufferRange a)

/-- `MemWrite(a, 1, v)` (R52). -/
def memWrite (s : State) (a : Nat) (v : Byte) : Except Fault State :=
  if a < s.cfg.bufCap then .ok { s with buf := s.buf.write a v } else .error (.bufferRange a)

/-- `[MemRead(a,1), ..., MemRead(a+n-1,1)]`. -/
def readBytes (s : State) (a : Nat) : Nat → Except Fault (List Byte)
  | 0 => .ok []
  | n + 1 => do
    let v ← memRead s a
    let vs ← readBytes s (a + 1) n
    .ok (v :: vs)

/-! ## The frame in progress -/

/-- "clear the Frame Buffer": a logical clear, `s.idx <- 0` (`10_state.md` rule R25). -/
def clearFrame (s : State) : State := { s with idx := 0 }

/-- "Resync": the decoder state returns to `AwaitingSync` (`00_scope.md` rule R14). -/
def resync (s : State) : State := { s with state := .awaitingSync }

/-- What every accepted byte does: `MemWrite(s.idx, 1, b); s.idx <- s.idx + 1; s.last_t <- t`
(`41_frame_assembler.md` rule R130). -/
def accept (s : State) (b : Byte) (t : Nat) : Except Fault State := do
  let s ← memWrite s s.idx b
  .ok { s with idx := s.idx + 1, lastT := portTime s.cfg t }

/-- The in-progress frame is stale at `now`: `elapsed > STALE_THRESHOLD` (`43_status_watchdog.md` rule R174). -/
def stale (s : State) (now : Nat) : Bool := decide (s.cfg.staleThreshold < elapsed s.cfg now s.lastT)

/-! ## Results and guards -/

/-- Return the result record `r` (`30_encoding.md` rule R74; log entry 3). -/
def respond (s : State) (r : Result) : State := { s with out := r }

/-- The end of an operation: its next state, or the fault of a buffer access. -/
def conclude : Except Fault State → Answer
  | .ok s => .next s
  | .error f => .fault f

/-- No operation but INIT has a meaning before the first reset (`70_reset_and_hazards.md` rule R231). -/
def whenBooted (s : State) (k : Answer) : Answer := if s.booted then k else .refused .beforeFirstReset

/-- The state in which a case row applies: the condition column of `30_encoding.md` rule R76 for BYTE, and the conditions
of `43_status_watchdog.md` rules R171 to R173 and R177 for POLL and READ. The whole operations, which R76 selects among
cases of, and the internal operations have no row condition. -/
def rowApplies (i : Instr) (s : State) : Bool :=
  match i with
  | .byteSync _ => decide (s.state = .awaitingSync)
  | .byteDrop b _ => decide (s.state = .awaitingSync ∧ b ≠ syncByte)
  | .byteStatus _ _ => decide (s.state = .readingStatus)
  | .byteLenBad b _ => decide (s.state = .readingLength ∧ s.cfg.maxPayload < b.toNat)
  | .byteLen b _ => decide (s.state = .readingLength ∧ 1 ≤ b.toNat ∧ b.toNat ≤ s.cfg.maxPayload)
  | .byteLen0 _ => decide (s.state = .readingLength)
  | .bytePay _ _ => decide (s.state = .readingPayload)
  | .byteCkHi _ _ => decide (s.state = .readingChecksum ∧ s.idx = 3 + s.len.toNat)
  | .byteCkLo _ _ => decide (s.state = .readingChecksum ∧ s.idx = 4 + s.len.toNat)
  | .pollReport _ => decide (s.pub ≠ .nothingNew)
  | .pollStale now => decide (s.pub = .nothingNew ∧ s.state ≠ .awaitingSync ∧ stale s now = true)
  | .pollIdle now => decide (s.pub = .nothingNew ∧ (s.state = .awaitingSync ∨ stale s now = false))
  | .readOk i => decide (i.toNat < s.cfg.maxChannels)
  | .readBad i => decide (s.cfg.maxChannels ≤ i.toNat)
  | .byte _ _ | .poll _ | .read _ | .init _ | .crc16Step _ _ | .publish => true

/-- Run the body of a case row where the row applies (`30_encoding.md` rule R76). -/
def whenRow (i : Instr) (s : State) (k : Answer) : Answer :=
  whenBooted s (if rowApplies i s then k else .refused .rowNotSelected)

/-! ## Reset -/

/-- Every field of `10_state.md` rule R20 takes its value of R41 (`70_reset_and_hazards.md` rule R230), and the buffer's
contents are drawn anew. The configuration and what the agents are about to present are not that state. -/
def applyReset (s : State) : State := { State.resetFor s.cfg with env := s.env, bufDraw := s.bufDraw + 1 }

/-! ## The agents (`20_memory.md` rules R56 and R57) -/

/-- Take an agent's oldest operation from its list. -/
def popRequest : List Request → Option Request × List Request
  | [] => (none, [])
  | r :: rs => (some r, rs)

/-- An agent's turn: it presents its oldest operation, if it has one. -/
def Event.ofRequest : Option Request → Event
  | none => .idle
  | some r => .request r

/-- The next event, and the inputs that are left after it. -/
def nextEvent (e : Env) : Event × Env :=
  match e.turns with
  | [] => (.idle, e)
  | .producer :: ts =>
    (.ofRequest (popRequest e.producer).1, { e with producer := (popRequest e.producer).2, turns := ts })
  | .consumer :: ts =>
    (.ofRequest (popRequest e.consumer).1, { e with consumer := (popRequest e.consumer).2, turns := ts })
  | .initializer :: ts =>
    (.ofRequest (popRequest e.initializer).1, { e with initializer := (popRequest e.initializer).2, turns := ts })
  | .hardwareReset :: ts => (.hardwareReset, { e with turns := ts })

/-- The agent that presents a command word: BYTE by the producer, POLL and READ by the consumer, INIT by the initializer
(`00_scope.md` rule R6). SRX does not check it (`60_exceptions.md` rule R209). -/
def agentOf (cw : BitVec 16) : Turn :=
  if cw.extractLsb' 0 2 = 0#2 then .producer
  else if cw.extractLsb' 0 2 = 3#2 then .initializer
  else .consumer

/-- The agent `agentOf` names presents `r` next, before everything else that is waiting. -/
def Env.present (e : Env) (r : Request) : Env :=
  match agentOf r.cw with
  | .producer => { e with producer := r :: e.producer, turns := .producer :: e.turns }
  | .consumer => { e with consumer := r :: e.consumer, turns := .consumer :: e.turns }
  | _ => { e with initializer := r :: e.initializer, turns := .initializer :: e.turns }

end Sys2Proof.Machine
end

