-- ==== Sys2Proof/Machine/Checksum.lean ====
section
/-! DEFINITION. The checksum unit (`40_checksum.md`): a pure function, which no command word selects. -/

namespace Sys2Proof.Machine

/-- One of the 8 rounds of R100: the test of bit 15 comes before the shift. -/
def crcRound (a : Word) : Word := if a.getLsbD 15 then (a <<< 1) ^^^ crcPoly else a <<< 1

/-- `n` rounds. -/
def crcRounds : Nat → Word → Word
  | 0, a => a
  | n + 1, a => crcRounds n (crcRound a)

/-- `crc16_step(acc, b)` (R100): XOR into the high byte, then 8 rounds. -/
def crc16Step (acc : Word) (b : Byte) : Word := crcRounds 8 (acc ^^^ (b.setWidth 16 <<< 8))

/-- `crc16(bytes)` (R101). -/
def crc16 (bytes : List Byte) : Word := bytes.foldl crc16Step crcInit

/-- CRC16.STEP (R100): it reads and writes no state, and returns the new accumulator. -/
def execCrc16Step (acc : Word) (b : Byte) (s : State) : Answer := .next (respond s (.crc (crc16Step acc b)))

end Sys2Proof.Machine
end

