-- ==== Sys2Proof/Machine/Publish.lean ====
section
/-! DEFINITION. The channel decoder, the frame classifier and PUBLISH (`42_channel_decoder.md`). -/

namespace Sys2Proof.Machine

/-- The decoded values of the channels the frame carries: entry `i` is `be16(MemRead(3+2i,1), MemRead(4+2i,1)) div 8` for
`0 <= i < n` (R151, R152, R155). -/
def decodeChannels (s : State) : Except Fault (List Word) := do
  let bytes ← readBytes s 3 (2 * channelsDecoded s.cfg s.len)
  .ok ((rawValues bytes).map microseconds)

/-- PUBLISH() (R155): one indivisible update. Entries the frame does not carry keep their value (R153). -/
def publishFrame (s : State) : Except Fault State := do
  let us ← decodeChannels s
  let status ← memRead s 1
  .ok { s with
    ch := us ++ s.ch.drop us.length
    fs := failsafe status
    valid := true
    pub := publishedStatus (failsafe status) }

/-- PUBLISH (R155), as the internal operation it is: it returns nothing. R150 runs it only at a valid completion; here it
has its effect in every state after the first reset. DEDUCED, the model's choice (log entry 8). -/
def execPublish (s : State) : Answer := whenBooted s (conclude (publishFrame s))

end Sys2Proof.Machine
end

