-- ==== Sys2Proof/Machine/Framing.lean ====
section
/-! DEFINITION. The framing state machine (`41_frame_assembler.md`): BYTE as one function (R130), and each of its cases
(R120 to R128) as the opcode table lists it. -/

namespace Sys2Proof.Machine

/-- MISMATCH() (R129): the discard of an invalid frame. -/
def mismatch (s : State) : State := { s with crcErr := countOne s.crcErr }

/-- The completion (R128, from the reading of `L` on): compare the checksum, and publish or discard. Both checksum bytes
are in the buffer already. -/
def complete (s : State) : Except Fault State := do
  let L := s.len.toNat
  let hi ← memRead s (3 + L)
  let lo ← memRead s (4 + L)
  let bytes ← readBytes s 0 (3 + L)
  let s := resync s
  if crc16 bytes = be16 hi lo then do
    let s ← publishFrame s
    .ok (respond s (.byte .frameOk))
  else .ok (respond (mismatch s) (.byte .crcMismatch))

/-- BYTE in `AwaitingSync` (R130, first branch). -/
def byteAwaiting (s : State) (b : Byte) (t : Nat) : Except Fault State :=
  if b ≠ syncByte then .ok (respond s (.byte .syncMiss))
  else do
    let s ← accept (clearFrame s) b t
    .ok (respond { s with state := .readingStatus } (.byte .none))

/-- BYTE in `ReadingLength` once the byte is accepted (R130). -/
def byteLength (s : State) (b : Byte) : State :=
  let s := { s with len := b }
  if s.cfg.maxPayload < b.toNat then
    respond (resync { s with lenErr := countOne s.lenErr }) (.byte .lenOversize)
  else if b = 0#8 then respond { s with state := .readingChecksum } (.byte .none)
  else respond { s with state := .readingPayload } (.byte .none)

/-- BYTE in `ReadingPayload` once the byte is accepted: the test uses `s.idx` after the increment (R126, R130). -/
def bytePayload (s : State) : State :=
  if s.idx = 3 + s.len.toNat then respond { s with state := .readingChecksum } (.byte .none)
  else respond s (.byte .none)

/-- BYTE, the complete operation (R130). -/
def byteOp (s : State) (b : Byte) (t : Nat) : Except Fault State :=
  match s.state with
  | .awaitingSync => byteAwaiting s b t
  | .readingStatus => do
    let s ← accept s b t
    .ok (respond { s with state := .readingLength } (.byte .none))
  | .readingLength => do
    let s ← accept s b t
    .ok (byteLength s b)
  | .readingPayload => do
    let s ← accept s b t
    .ok (bytePayload s)
  | .readingChecksum => do
    let s ← accept s b t
    if s.idx = 5 + s.len.toNat then complete s else .ok (respond s (.byte .none))

/-- BYTE (R130). -/
def execByte (b : Byte) (t : Nat) (s : State) : Answer := whenBooted s (conclude (byteOp s b t))

/-- BYTE.SYNC (R120). -/
def execByteSync (t : Nat) (s : State) : Answer :=
  whenRow (.byteSync t) s (conclude do
    let s ← accept (clearFrame s) syncByte t
    .ok (respond { s with state := .readingStatus } (.byte .none)))

/-- BYTE.DROP (R121): no state changes; in particular `s.last_t` is not updated. -/
def execByteDrop (b : Byte) (t : Nat) (s : State) : Answer :=
  whenRow (.byteDrop b t) s (.next (respond s (.byte .syncMiss)))

/-- BYTE.STATUS (R122). -/
def execByteStatus (b : Byte) (t : Nat) (s : State) : Answer :=
  whenRow (.byteStatus b t) s (conclude do
    let s ← accept s b t
    .ok (respond { s with state := .readingLength } (.byte .none)))

/-- BYTE.LEN_BAD (R123), with the writes that R123 allows a model to omit (log entry 15). -/
def execByteLenBad (b : Byte) (t : Nat) (s : State) : Answer :=
  whenRow (.byteLenBad b t) s (conclude do
    let s ← accept s b t
    .ok (respond (resync { s with len := b, lenErr := countOne s.lenErr }) (.byte .lenOversize)))

/-- BYTE.LEN (R124). -/
def execByteLen (b : Byte) (t : Nat) (s : State) : Answer :=
  whenRow (.byteLen b t) s (conclude do
    let s ← accept s b t
    .ok (respond { s with len := b, state := .readingPayload } (.byte .none)))

/-- BYTE.LEN0 (R125): the writes of R124 with `b = 0`, then directly to `ReadingChecksum`. -/
def execByteLen0 (t : Nat) (s : State) : Answer :=
  whenRow (.byteLen0 t) s (conclude do
    let s ← accept s 0#8 t
    .ok (respond { s with len := 0#8, state := .readingChecksum } (.byte .none)))

/-- BYTE.PAY (R126). -/
def execBytePay (b : Byte) (t : Nat) (s : State) : Answer :=
  whenRow (.bytePay b t) s (conclude do
    let s ← accept s b t
    .ok (bytePayload s))

/-- BYTE.CK_HI (R127): the state stays `ReadingChecksum`. -/
def execByteCkHi (b : Byte) (t : Nat) (s : State) : Answer :=
  whenRow (.byteCkHi b t) s (conclude do
    let s ← accept s b t
    .ok (respond s (.byte .none)))

/-- BYTE.CK_LO (R128): the completion. -/
def execByteCkLo (b : Byte) (t : Nat) (s : State) : Answer :=
  whenRow (.byteCkLo b t) s (conclude do
    let s ← accept s b t
    complete s)

end Sys2Proof.Machine
end

