-- ==== Sys2Proof/Machine/Init.lean ====
section
/-! DEFINITION. INIT: the initialization entry point (`43_status_watchdog.md` rules R179 and R180). -/

namespace Sys2Proof.Machine

/-- INIT (R179): the state is reset whatever `src_attached` is, before the first reset as well (R231). -/
def execInit (attached : Bool) (s : State) : Answer := .next (respond (applyReset s) (.init attached .none))

end Sys2Proof.Machine
end

