-- ==== Sys2Proof/Machine/ReadPort.lean ====
section
/-! DEFINITION. READ: the channel read port (`43_status_watchdog.md` rules R177 and R178). READ changes no state; only the
result record is new. -/

namespace Sys2Proof.Machine

/-- The entry of the channel array that READ.OK returns. -/
def readChannel (s : State) (i : Byte) : Except Fault State :=
  match s.ch[i.toNat]? with
  | some v => .ok (respond s (.read false v .none))
  | none => .error (.channelAbsent i.toNat)

/-- The rejection of an index outside `0 .. MAX_CHANNELS-1` (decision D14; log entry 10). -/
def readReject (s : State) : State := respond s (.read true 0#16 .indexRange)

/-- READ, the complete operation (R177). -/
def readOp (s : State) (i : Byte) : Except Fault State :=
  if s.cfg.maxChannels ≤ i.toNat then .ok (readReject s) else readChannel s i

/-- READ (R177). -/
def execRead (i : Byte) (s : State) : Answer := whenBooted s (conclude (readOp s i))

/-- READ.OK (R177). -/
def execReadOk (i : Byte) (s : State) : Answer := whenRow (.readOk i) s (conclude (readChannel s i))

/-- READ.BAD (R177). -/
def execReadBad (i : Byte) (s : State) : Answer := whenRow (.readBad i) s (.next (readReject s))

end Sys2Proof.Machine
end

