-- ==== Sys2Proof/Machine/Watchdog.lean ====
section
/-! DEFINITION. POLL: the status publisher and the stale-frame watchdog (`43_status_watchdog.md` rules R170 to R176). -/

namespace Sys2Proof.Machine

/-- Report a completion, once (R171). -/
def reportStatus (s : State) : State := respond { s with pub := .nothingNew } (.poll s.pub .none)

/-- The watchdog abort (R172): `s.idx`, `s.len`, `s.buf` and `s.last_t` are left as they are. -/
def abortFrame (s : State) : State := respond (resync s) (.poll .nothingNew .staleAbort)

/-- Nothing to report and nothing to abort (R173). -/
def reportNothing (s : State) : State := respond s (.poll .nothingNew .none)

/-- POLL, the complete operation (R170): report, then stale, then idle (R175). -/
def pollOp (s : State) (now : Nat) : State :=
  if s.pub ≠ .nothingNew then reportStatus s
  else if s.state ≠ .awaitingSync ∧ stale s now then abortFrame s
  else reportNothing s

/-- POLL (R170). -/
def execPoll (now : Nat) (s : State) : Answer := whenBooted s (.next (pollOp s now))

/-- POLL.REPORT (R171). -/
def execPollReport (now : Nat) (s : State) : Answer := whenRow (.pollReport now) s (.next (reportStatus s))

/-- POLL.STALE (R172). -/
def execPollStale (now : Nat) (s : State) : Answer := whenRow (.pollStale now) s (.next (abortFrame s))

/-- POLL.IDLE (R173). -/
def execPollIdle (now : Nat) (s : State) : Answer := whenRow (.pollIdle now) s (.next (reportNothing s))

end Sys2Proof.Machine
end

