-- ==== Sys2Proof/Machine/Dispatch.lean ====
section
/-! DEFINITION. One arm for each row of the opcode table. -/

namespace Sys2Proof.Machine

def exec (i : Instr) (s : State) : Host.Outcome State Fault Refusal :=
  match i with
  | .byte b t => Sys2Proof.Machine.execByte b t s
  | .byteSync t => Sys2Proof.Machine.execByteSync t s
  | .byteDrop b t => Sys2Proof.Machine.execByteDrop b t s
  | .byteStatus b t => Sys2Proof.Machine.execByteStatus b t s
  | .byteLenBad b t => Sys2Proof.Machine.execByteLenBad b t s
  | .byteLen b t => Sys2Proof.Machine.execByteLen b t s
  | .byteLen0 t => Sys2Proof.Machine.execByteLen0 t s
  | .bytePay b t => Sys2Proof.Machine.execBytePay b t s
  | .byteCkHi b t => Sys2Proof.Machine.execByteCkHi b t s
  | .byteCkLo b t => Sys2Proof.Machine.execByteCkLo b t s
  | .poll now => Sys2Proof.Machine.execPoll now s
  | .pollReport now => Sys2Proof.Machine.execPollReport now s
  | .pollStale now => Sys2Proof.Machine.execPollStale now s
  | .pollIdle now => Sys2Proof.Machine.execPollIdle now s
  | .read k => Sys2Proof.Machine.execRead k s
  | .readOk k => Sys2Proof.Machine.execReadOk k s
  | .readBad k => Sys2Proof.Machine.execReadBad k s
  | .init attached => Sys2Proof.Machine.execInit attached s
  | .crc16Step acc b => Sys2Proof.Machine.execCrc16Step acc b s
  | .publish => Sys2Proof.Machine.execPublish s

end Sys2Proof.Machine
end

