-- ==== Sys2Proof/Machine/Step.lean ====
section
/-! DEFINITION. One step: the next event of the total order of `20_memory.md` rule R56, as one indivisible update
(log entry 19). -/

namespace Sys2Proof.Machine

/-- The next event. A presented operation is decoded and executed; a command word of R78 is refused; a hardware reset
resets (R230); with nothing presented, nothing changes but the turn that passed (log entry 4). -/
def step (s : State) : Host.Outcome State Fault Refusal :=
  match (nextEvent s.env).1 with
  | .idle => .next { s with env := (nextEvent s.env).2 }
  | .hardwareReset => .next (applyReset { s with env := (nextEvent s.env).2 })
  | .request r =>
    match decode r with
    | .ok i => exec i { s with env := (nextEvent s.env).2 }
    | .error why => .refused (.reservedWord why)

/-- `s` with the operation of a table word presented next, by the agent whose operation it is (log entry 14). -/
def State.withFetchWord (s : State) (nbits w : Nat) : State :=
  { s with env := s.env.present (Request.ofTableWord nbits w) }

end Sys2Proof.Machine
end

