-- ==== Sys2Proof/Machine/Pseudo.lean ====
section
/-! DEFINITION. The wire frame of `30_encoding.md` rule R70 and the pseudo-operations of R80 and `00_scope.md` rule R11:
lists of BYTE operations, not operations of SRX. -/

namespace Sys2Proof.Machine

/-- The bytes of a frame that the checksum covers: sync, status, length, payload (R70, `40_checksum.md` rule R102). -/
def frameBody (status : Byte) (payload : List Byte) : List Byte :=
  syncByte :: status :: BitVec.ofNat 8 payload.length :: payload

/-- A complete frame: its body and the checksum of its body, high byte first (R70). -/
def wireFrame (status : Byte) (payload : List Byte) : List Byte :=
  frameBody status payload ++
    [hiByte (crc16 (frameBody status payload)), loByte (crc16 (frameBody status payload))]

/-- Each byte with its own arrival time. -/
def bytesAt (bs : List Byte) (ts : List Nat) : List Instr := List.zipWith Instr.byte bs ts

/-- `BYTES b0 b1 ... bk @t` (R80). -/
def bytesOps (bs : List Byte) (t : Nat) : List Instr := bs.map (fun b => Instr.byte b t)

/-- The payload of `FRAME`: each raw value, high byte first (R80). -/
def framePayload (vs : List Word) : List Byte := vs.flatMap (fun v => [hiByte v, loByte v])

/-- `FRAME st [v0, ..., v(n-1)] @t` (R80). -/
def frameOps (status : Byte) (vs : List Word) (t : Nat) : List Instr := bytesOps (wireFrame status (framePayload vs)) t

/-- `FRAME! st [v0, ..., v(n-1)] @t` (R80): the checksum low byte XORed with `0x01`. -/
def corruptFrameOps (status : Byte) (vs : List Word) (t : Nat) : List Instr :=
  bytesOps (frameBody status (framePayload vs) ++
    [hiByte (crc16 (frameBody status (framePayload vs))),
      loByte (crc16 (frameBody status (framePayload vs))) ^^^ 0x01#8]) t

end Sys2Proof.Machine
end

