-- ==== Sys2Proof/Safety.lean ====
section
/-! DEFINITION. The terms the statements are made in: the invariants of the state, what a group of fields keeping its value
means, running a sequence of operations, the running-accumulator implementation of `40_checksum.md` rule R104, and states
that no operation tells apart. -/

namespace Sys2Proof.Machine

/-! ## Invariants -/

/-- What holds between operations: the ranges of `10_state.md` rule R20, the invariants of R38 for each decoder state, and
the buffer layout of `20_memory.md` rule R51 as far as the frame has come. In `AwaitingSync` nothing is said of the frame. -/
structure State.Inv (s : State) : Prop where
  cfgValid : s.cfg.Valid
  bufWf : s.buf.wf
  bufInRange : ∀ p ∈ s.buf, p.1 < s.cfg.bufCap
  idxBound : s.idx ≤ s.cfg.bufCap
  lastTFits : s.lastT < s.cfg.timeSpan
  chSize : s.ch.length = s.cfg.maxChannels
  atStatus : s.state = .readingStatus → s.idx = 1
  atLength : s.state = .readingLength → s.idx = 2
  atPayload : s.state = .readingPayload →
    1 ≤ s.len.toNat ∧ s.len.toNat ≤ s.cfg.maxPayload ∧ 3 ≤ s.idx ∧ s.idx < 3 + s.len.toNat
  atChecksum : s.state = .readingChecksum →
    s.len.toNat ≤ s.cfg.maxPayload ∧ 3 + s.len.toNat ≤ s.idx ∧ s.idx < 5 + s.len.toNat
  syncStored : s.state ≠ .awaitingSync → s.buf.read 0 = some syncByte
  lenStored : s.state = .readingPayload ∨ s.state = .readingChecksum → s.buf.read 2 = some s.len
  written : s.state ≠ .awaitingSync → ∀ a, a < s.idx → (s.buf.read a).isSome = true

/-- What holds of the published snapshot: a pending report is of a published frame and agrees with `fs` (`10_state.md`
rules R29 to R31), nothing is published before the first frame, and an entry is its reset value or a decoded value, which
lies in `0 .. 8191` (`42_channel_decoder.md` rule R152). -/
structure State.SnapInv (s : State) : Prop where
  reported : s.pub ≠ .nothingNew → s.valid = true ∧ s.pub = publishedStatus s.fs
  unpublished : s.valid = false → s.fs = false ∧ ∀ v ∈ s.ch, v = s.cfg.chResetValue
  range : ∀ v ∈ s.ch, v = s.cfg.chResetValue ∨ v.toNat ≤ 8191

/-! ## Fields that keep their value -/

/-- The published snapshot and the publish state. -/
def SameSnapshot (s s' : State) : Prop := s'.ch = s.ch ∧ s'.fs = s.fs ∧ s'.valid = s.valid ∧ s'.pub = s.pub

/-- The diagnostic counters. -/
def SameCounters (s s' : State) : Prop := s'.lenErr = s.lenErr ∧ s'.crcErr = s.crcErr

/-- The frame in progress: decoder state, position, declared length, timestamp and every byte of the buffer. -/
def SameFrame (s s' : State) : Prop :=
  s'.state = s.state ∧ s'.idx = s.idx ∧ s'.len = s.len ∧ s'.lastT = s.lastT ∧ ∀ a, s'.buf.read a = s.buf.read a

/-- What no operation of SRX but a reset writes: the configuration, what the agents have still to present, and the draw of
the buffer's unwritten contents. -/
def SameSetting (s s' : State) : Prop :=
  s'.cfg = s.cfg ∧ s'.booted = s.booted ∧ s'.env = s.env ∧ s'.bufDraw = s.bufDraw

/-- The accepted byte `b` is stored at `a`, and every other entry of the buffer is as before. -/
def StoredAt (s s' : State) (a : Nat) (b : Byte) : Prop :=
  s'.buf.read a = some b ∧ ∀ x, x ≠ a → s'.buf.read x = s.buf.read x

/-- The buffer holds the bytes `bs` from address `a` on, bytes that were stored or the free values of unwritten entries. -/
def HoldsBytes (s : State) (a : Nat) (bs : List Byte) : Prop := ∀ k, k < bs.length → some (byteAt s (a + k)) = bs[k]?

/-- The value channel `i` of a payload decodes to, if the payload reaches that far: `(256 h + l) div 8`
(`42_channel_decoder.md` rules R151 and R152). -/
def channelOf (payload : List Byte) (i : Nat) : Option Word :=
  match payload[2 * i]?, payload[2 * i + 1]? with
  | some h, some l => some (BitVec.ofNat 16 ((h.toNat * 256 + l.toNat) / 8))
  | _, _ => none

/-- `s'` shows the frame with this status and payload published over `s` (`42_channel_decoder.md` rule R155). Bit 7 alone
classifies the status, `0xA8` among them (log entry 21). -/
def Published (s s' : State) (status : Byte) (payload : List Byte) : Prop :=
  (∀ i, s'.ch[i]? =
    if i < min (payload.length / 2) s.cfg.maxChannels then channelOf payload i else s.ch[i]?) ∧
  s'.fs = status.getLsbD 7 ∧ s'.valid = true ∧
  s'.pub = (if status.getLsbD 7 then .completeWithFailsafe else .complete)

/-! ## Sequences of operations -/

/-- The operations one after another, each in the state the one before it left (`20_memory.md` rule R56). -/
def runOps : List Instr → State → Answer
  | [], s => .next s
  | i :: is, s =>
    match exec i s with
    | .next s' => runOps is s'
    | .fault f => .fault f
    | .refused r => .refused r

/-! ## The running accumulator of `40_checksum.md` rule R104 -/

/-- The accumulator register of an implementation that keeps one, after the byte `b` arrives in state `s`. It is no part of
`State` (log entry 13). -/
def accNext (acc : Word) (s : State) (b : Byte) : Word :=
  match s.state with
  | .awaitingSync => if b = syncByte then crc16Step crcInit b else acc
  | .readingStatus | .readingLength | .readingPayload => crc16Step acc b
  | .readingChecksum => acc

/-- The register equals `crc16(buf[0 .. s.idx-1])`, or `crc16(buf[0 .. 2+L])` once the payload is complete. -/
def AccHolds (acc : Word) (s : State) : Prop :=
  s.state ≠ .awaitingSync →
    ∀ bytes, bytes.length = (if s.state = .readingChecksum then 3 + s.len.toNat else s.idx) →
      HoldsBytes s 0 bytes → acc = crc16 bytes

/-- The checksum unit one bit at a time, most significant bit of the byte first (`40_checksum.md` rule R100, "Bits enter
most significant first"; `20_memory.md` rule R53): the bit is compared with the accumulator's top bit before the shift. -/
def crcBit (acc : Word) (bit : Bool) : Word :=
  if acc.getLsbD 15 != bit then (acc <<< 1) ^^^ 0x1021#16 else acc <<< 1

/-- The bits of a byte, most significant first. -/
def bitsMsbFirst (b : Byte) : List Bool :=
  [b.getLsbD 7, b.getLsbD 6, b.getLsbD 5, b.getLsbD 4, b.getLsbD 3, b.getLsbD 2, b.getLsbD 1, b.getLsbD 0]

/-! ## States no operation tells apart -/

/-- The states differ at most in what no rule reads: in `AwaitingSync` the whole of the abandoned frame (`10_state.md`
rules R38 and R39), inside a frame the buffer from `s.idx` on (R25) and a declared length that is still to be read, and
everywhere the draw of the free values in unwritten entries of the buffer (log entry 5). -/
structure FrameEquiv (s s' : State) : Prop where
  cfg : s'.cfg = s.cfg
  booted : s'.booted = s.booted
  env : s'.env = s.env
  out : s'.out = s.out
  state : s'.state = s.state
  snapshot : SameSnapshot s s'
  counters : SameCounters s s'
  frame : s.state ≠ .awaitingSync → s'.idx = s.idx ∧ s'.lastT = s.lastT ∧ ∀ a, a < s.idx → s'.buf.read a = s.buf.read a
  len : s.state = .readingPayload ∨ s.state = .readingChecksum → s'.len = s.len

end Sys2Proof.Machine
end

