-- ==== Sys2Proof/Certificates/Slice0/Obligations.lean ====
section
/-! DEFINITION. What is claimed of the model, from the numbered rules of `spec/`. Each statement holds for every state,
and so for every configuration, that meets its hypotheses. -/

open Sys2Proof Sys2Proof.Machine

/-! ## Encoding (`30_encoding.md`) -/

/-- Command words written out in `95_test_vectors.md` programs P1 and P2 decode to what they stand for there, and
words of R78 are refused (a sanity statement). -/
def Obligations.SpecWordsDecode : Prop :=
  decode { cw := 0x02A0#16, time := 10, attached := false } = .ok (.byte 0xA8#8 10) ∧
  decode { cw := 0x0004#16, time := 10, attached := false } = .ok (.byte 0x01#8 10) ∧
  decode { cw := 0x03FC#16, time := 2, attached := false } = .ok (.byte 0xFF#8 2) ∧
  decode { cw := 0x0001#16, time := 12, attached := false } = .ok (.poll 12) ∧
  decode { cw := 0x0042#16, time := 0, attached := false } = .ok (.read 16#8) ∧
  decode { cw := 0x0003#16, time := 0, attached := true } = .ok (.init true) ∧
  decode { cw := 0x0400#16, time := 0, attached := false } = .error .reservedBits ∧
  decode { cw := 0x0005#16, time := 0, attached := false } = .error .argNotZero ∧
  decode { cw := 0x0007#16, time := 0, attached := false } = .error .argNotZero

/-- R73 (the spec's own encoding, decision D3): `op` is `cw[1:0]`, `arg` is `cw[9:2]`, bits `[15:10]` must be 0, and
the four codes select the four operations. -/
def Obligations.CommandWordSelectsOperation : Prop :=
  ∀ r : Request, r.cw.toNat / 1024 = 0 →
    (r.cw.toNat % 4 = 0 → decode r = .ok (.byte (BitVec.ofNat 8 (r.cw.toNat / 4)) r.time)) ∧
    (r.cw.toNat % 4 = 1 → r.cw.toNat / 4 = 0 → decode r = .ok (.poll r.time)) ∧
    (r.cw.toNat % 4 = 2 → decode r = .ok (.read (BitVec.ofNat 8 (r.cw.toNat / 4)))) ∧
    (r.cw.toNat % 4 = 3 → r.cw.toNat / 4 = 0 → decode r = .ok (.init r.attached))

/-- Encoding any row of the opcode table and decoding the word gives the operation whose command word the row is, with
every operand; for BYTE, POLL, READ and INIT themselves that is the instruction that was encoded. The internal rows,
and only they, have no command word. -/
def Obligations.DecodeOfEncodeGivesPresentedOperation : Prop :=
  ∀ (c : Config) (i : Instr), i.wf c = true →
    (∀ r, encode i = some r → ∃ w, i.presented = some w ∧ decode r = .ok w ∧ w.wf c = true) ∧
    (encode i = none ↔ i.presented = none) ∧
    (i.isCase = false → i.presented ≠ none → i.presented = some i)

/-- Every word the decoder accepts is the encoding of the operation it answers, so an operation has one word. -/
def Obligations.EncodeOfDecodeGivesTheWordBack : Prop :=
  ∀ (r : Request) (i : Instr), decode r = .ok i →
    ∃ r', encode i = some r' ∧ r'.cw = r.cw ∧ i.presented = some i

/-- R78 (decision D3): a word is refused as reserved exactly when one of bits `[15:10]` is set or a POLL or INIT
word has `arg != 0`: no READ out of range and no byte value is. A refusal is not a next state, so no state changes. -/
def Obligations.ReservedWordsAreRefused : Prop :=
  ∀ (s : State) (r : Request), (nextEvent s.env).1 = .request r →
    ((∃ why, step s = .refused (.reservedWord why)) ↔
      (r.cw.toNat / 1024 ≠ 0 ∨ ((r.cw.toNat % 4 = 1 ∨ r.cw.toNat % 4 = 3) ∧ r.cw.toNat / 4 % 256 ≠ 0)))

/-! ## The step and the agents -/

/-- A step runs the decoded instruction: when the operation presented next decodes to `i`, the step is `exec i` in the
state from which the presented operation and its turn are taken, and from which nothing else is. -/
def Obligations.StepRunsDecodedInstruction : Prop :=
  ∀ (s : State) (r : Request) (i : Instr), (nextEvent s.env).1 = .request r → decode r = .ok i →
    step s = exec i { s with env := (nextEvent s.env).2 }

/-- R212, in the model's form of the agents (log entry 4): each agent presents its operations one at a time, in its
own order. A step takes at most one operation, the oldest one of the agent whose turn it is, and leaves the other
agents' lists alone. -/
def Obligations.EachAgentKeepsItsOrder : Prop :=
  ∀ s s' : State, step s = .next s' →
    (s.env.turns = [] ∧ s'.env = s.env) ∨
    (∃ ts, s.env.turns = .producer :: ts ∧
      s'.env = { s.env with producer := s.env.producer.tail, turns := ts }) ∨
    (∃ ts, s.env.turns = .consumer :: ts ∧
      s'.env = { s.env with consumer := s.env.consumer.tail, turns := ts }) ∨
    (∃ ts, s.env.turns = .initializer :: ts ∧
      s'.env = { s.env with initializer := s.env.initializer.tail, turns := ts }) ∨
    (∃ ts, s.env.turns = .hardwareReset :: ts ∧ s'.env = { s.env with turns := ts })

/-- R57 (decision D16; the list of turns is the model's, log entry 4): both orders of a producer's operation and a
consumer's operation presented together are executions. From a state in which `p` and `q` wait, the turns decide
whether `p` or `q` is executed first, each in the state the other one left. -/
def Obligations.BothOrdersOfTheAgentsAreExecutions : Prop :=
  ∀ (s : State) (p q : Request) (i j : Instr) (ps qs : List Request) (ts : List Turn),
    decode p = .ok i → decode q = .ok j →
    s.env.producer = p :: ps → s.env.consumer = q :: qs →
    let rest : Env := { s.env with producer := ps, consumer := qs, turns := ts }
    (s.env.turns = .producer :: .consumer :: ts → ∀ s₁ s₂,
      exec i { s with env := rest } = .next s₁ → exec j s₁ = .next s₂ →
      Host.Core.run Sys2Proof.core 2 s = .next s₂) ∧
    (s.env.turns = .consumer :: .producer :: ts → ∀ s₁ s₂,
      exec j { s with env := rest } = .next s₁ → exec i s₁ = .next s₂ →
      Host.Core.run Sys2Proof.core 2 s = .next s₂)

/-! ## Reset and INIT -/

/-- R41: the reset value of every field, whatever the configuration is. All but the decoder state's are the spec's own
choice (decisions D13 and D18, log entry 9). The buffer's contents are unspecified: no byte of it is stored, and each
entry holds a free value (log entry 5), whose draw this statement says nothing of. -/
def Obligations.ResetValues : Prop :=
  ∀ c : Config,
    (State.resetFor c).cfg = c ∧ (State.resetFor c).state = .awaitingSync ∧ (State.resetFor c).idx = 0 ∧
    (State.resetFor c).len = 0#8 ∧ (State.resetFor c).lastT = 0 ∧
    (State.resetFor c).ch.length = c.maxChannels ∧
    (∀ i, i < c.maxChannels → (State.resetFor c).ch[i]? = some c.chResetValue) ∧
    (State.resetFor c).fs = false ∧ (State.resetFor c).valid = false ∧ (State.resetFor c).pub = .nothingNew ∧
    (State.resetFor c).lenErr = 0#32 ∧ (State.resetFor c).crcErr = 0#32 ∧
    ∀ a, (State.resetFor c).buf.read a = none

/-- R230 (decision D13): a hardware reset gives every field its reset value and returns no result. The configuration,
and what the agents have still to present, stay. It leaves the buffer's contents to a new draw of the free value (the
model's choice, log entry 5). -/
def Obligations.HardwareResetResets : Prop :=
  ∀ (s : State) (ts : List Turn), s.env.turns = .hardwareReset :: ts →
    ∃ s', step s = .next s' ∧
      s'.cfg = s.cfg ∧ s'.state = .awaitingSync ∧ s'.idx = 0 ∧ s'.len = 0#8 ∧ s'.lastT = 0 ∧
      s'.ch.length = s.cfg.maxChannels ∧ (∀ i, i < s.cfg.maxChannels → s'.ch[i]? = some s.cfg.chResetValue) ∧
      s'.fs = false ∧ s'.valid = false ∧ s'.pub = .nothingNew ∧ s'.lenErr = 0#32 ∧ s'.crcErr = 0#32 ∧
      s'.out = .none ∧ s'.booted = true ∧ s'.env = { s.env with turns := ts } ∧
      (∀ a, s'.buf.read a = none) ∧ s'.bufDraw = s.bufDraw + 1

/-- R179, R180 (decision D19): INIT completes in every state and resets every field whatever `src_attached` is,
returns `ok = src_attached`, and leaves the configuration. Its two outcomes differ in the result only. It leaves the
buffer's contents to a new draw of the free value (the model's choice, log entry 5). -/
def Obligations.InitResetsWhateverIsAttached : Prop :=
  ∀ (s : State) (attached : Bool),
    ∃ s', exec (.init attached) s = .next s' ∧
      s'.cfg = s.cfg ∧ s'.state = .awaitingSync ∧ s'.idx = 0 ∧ s'.len = 0#8 ∧ s'.lastT = 0 ∧
      s'.ch.length = s.cfg.maxChannels ∧ (∀ i, i < s.cfg.maxChannels → s'.ch[i]? = some s.cfg.chResetValue) ∧
      s'.fs = false ∧ s'.valid = false ∧ s'.pub = .nothingNew ∧ s'.lenErr = 0#32 ∧ s'.crcErr = 0#32 ∧
      s'.out = .init attached .none ∧ s'.booted = true ∧ s'.env = s.env ∧
      (∀ a, s'.buf.read a = none) ∧ s'.bufDraw = s.bufDraw + 1 ∧
      exec (.init (!attached)) s = .next { s' with out := .init (!attached) .none }

/-- R231 (decision D20; the flag is the model's, log entry 6): before the first hardware reset or INIT, BYTE, POLL and
READ are given no result, and a hardware reset or an INIT ends that. -/
def Obligations.NoResultBeforeTheFirstReset : Prop :=
  ∀ s : State, s.booted = false →
    (∀ b t, exec (.byte b t) s = .refused .beforeFirstReset) ∧
    (∀ now, exec (.poll now) s = .refused .beforeFirstReset) ∧
    (∀ i, exec (.read i) s = .refused .beforeFirstReset) ∧
    (∀ i, i.isCase = true → exec i s = .refused .beforeFirstReset) ∧
    exec .publish s = .refused .beforeFirstReset ∧
    (∀ attached, ∃ s', exec (.init attached) s = .next s' ∧ s'.booted = true)

/-! ## Invariants -/

/-- The invariants hold at reset under every configuration R7 allows. -/
def Obligations.ResetMeetsTheInvariants : Prop :=
  ∀ c : Config, c.Valid → (State.resetFor c).Inv ∧ (State.resetFor c).SnapInv

/-- Every step keeps the invariants of `10_state.md` rule R38, which the spec marks as its own inference, the buffer
layout of R51, and the canonical form of the buffer, from every state that has them. -/
def Obligations.StepKeepsTheFrameInvariant : Prop :=
  ∀ s s' : State, s.Inv → step s = .next s' → s'.Inv

/-- Every step keeps what is said of the published snapshot: a pending report is of a published frame and agrees with
its failsafe flag, and every entry is its reset value or lies in `0 .. 8191`. -/
def Obligations.StepKeepsTheSnapshotInvariant : Prop :=
  ∀ s s' : State, s.SnapInv → step s = .next s' → s'.SnapInv

/-- The rows and internal operations keep both invariants as well, each taken as an operation of its own. -/
def Obligations.EveryRowKeepsTheInvariants : Prop :=
  ∀ (i : Instr) (s s' : State), exec i s = .next s' → (s.Inv → s'.Inv) ∧ (s.SnapInv → s'.SnapInv)

/-- No buffer access outside `0 .. BUF_CAP-1` and no missing channel entry: with the invariant, no step faults. -/
def Obligations.StepNeverFaults : Prop :=
  ∀ s : State, s.Inv → ∀ f, step s ≠ .fault f

/-- R36 (decision D5): nothing writes the configuration, and the channel array is never resized (R28). -/
def Obligations.ConfigurationIsReadOnly : Prop :=
  ∀ s s' : State, step s = .next s' →
    s'.cfg = s.cfg ∧ (s.ch.length = s.cfg.maxChannels → s'.ch.length = s'.cfg.maxChannels)

/-- R52: the buffer primitives. Below `BUF_CAP` a read always returns a byte: the one that is stored there, or the
free value of an entry not written since the latest reset (log entry 5). A byte written is read back, every other
address reads as before, and the canonical form is kept. At or above `BUF_CAP` both primitives fault, which R52 allows
and no execution reaches (log entry 11). -/
def Obligations.BufferPrimitives : Prop :=
  ∀ (s : State) (a : Nat) (v : Byte),
    (a < 5 + s.cfg.maxPayload → ∀ b, s.buf.read a = some b → memRead s a = .ok b) ∧
    (a < 5 + s.cfg.maxPayload → s.buf.read a = none → memRead s a = .ok (Config.bufferByte s.bufDraw a)) ∧
    (a < 5 + s.cfg.maxPayload → ∃ s', memWrite s a v = .ok s' ∧ memRead s' a = .ok v ∧
      (∀ x, x ≠ a → memRead s' x = memRead s x) ∧ (s.buf.wf → s'.buf.wf) ∧ s' = { s with buf := s'.buf }) ∧
    (5 + s.cfg.maxPayload ≤ a →
      memWrite s a v = .error (.bufferRange a) ∧ memRead s a = .error (.bufferRange a))

/-! ## The operations and their cases -/

/-- R76, R130 (the rows as instructions of their own are the model's, log entry 7): BYTE is the case that the state
and the byte select, row by row. -/
def Obligations.ByteAgreesWithItsCases : Prop :=
  ∀ (s : State) (b : Byte) (t : Nat), s.booted = true →
    (s.state = .awaitingSync → b = 0xA8#8 → exec (.byte b t) s = exec (.byteSync t) s) ∧
    (s.state = .awaitingSync → b ≠ 0xA8#8 → exec (.byte b t) s = exec (.byteDrop b t) s) ∧
    (s.state = .readingStatus → exec (.byte b t) s = exec (.byteStatus b t) s) ∧
    (s.state = .readingLength → s.cfg.maxPayload < b.toNat → exec (.byte b t) s = exec (.byteLenBad b t) s) ∧
    (s.state = .readingLength → 1 ≤ b.toNat → b.toNat ≤ s.cfg.maxPayload →
      exec (.byte b t) s = exec (.byteLen b t) s) ∧
    (s.state = .readingLength → b = 0#8 → exec (.byte b t) s = exec (.byteLen0 t) s) ∧
    (s.state = .readingPayload → exec (.byte b t) s = exec (.bytePay b t) s) ∧
    (s.state = .readingChecksum → s.idx = 3 + s.len.toNat → exec (.byte b t) s = exec (.byteCkHi b t) s) ∧
    (s.state = .readingChecksum → s.idx = 4 + s.len.toNat → exec (.byte b t) s = exec (.byteCkLo b t) s)

/-- R76, R205 (the refusal of the other rows is the model's, log entry 7): of the rows that share the word of BYTE,
POLL or READ, exactly one applies, and it is the only one that is not refused. -/
def Obligations.ExactlyOneCaseApplies : Prop :=
  ∀ (s : State) (w : Instr), s.Inv → s.booted = true →
    (∃ b t, w = .byte b t) ∨ (∃ now, w = .poll now) ∨ (∃ i, w = .read i) →
    ∃ i : Instr, (i.isCase = true ∧ i.presented = some w ∧ exec i s = exec w s ∧ ∃ s', exec i s = .next s') ∧
      ∀ j : Instr, j.isCase = true → j.presented = some w → j ≠ i → exec j s = .refused .rowNotSelected

/-- BYTE completes on every byte value in every state between operations: no input stops the block (R200, decision
D17). -/
def Obligations.ByteAlwaysCompletes : Prop :=
  ∀ (s : State) (b : Byte) (t : Nat), s.Inv → s.booted = true →
    ∃ s' evt, exec (.byte b t) s = .next s' ∧ s'.out = .byte evt ∧ SameSetting s s'

/-! ## The framing state machine (`41_frame_assembler.md`) -/

/-- R120: BYTE.SYNC starts a frame: the byte at address 0, the position 1, the time of arrival, and nothing else. The
case does not apply in any other state. -/
def Obligations.ByteSyncStartsAFrame : Prop :=
  ∀ (s : State) (t : Nat), s.booted = true →
    (s.state = .awaitingSync →
      ∃ s', exec (.byteSync t) s = .next s' ∧
        s'.state = .readingStatus ∧ s'.idx = 1 ∧ s'.len = s.len ∧ s'.lastT = t % 2 ^ s.cfg.timeW ∧
        StoredAt s s' 0 0xA8#8 ∧ SameSnapshot s s' ∧ SameCounters s s' ∧ SameSetting s s' ∧ s'.out = .byte .none) ∧
    (s.state ≠ .awaitingSync → ∀ s', exec (.byteSync t) s ≠ .next s')

/-- R121: BYTE.DROP changes no state; only its result is new. -/
def Obligations.ByteDropChangesNothing : Prop :=
  ∀ (s : State) (b : Byte) (t : Nat), s.booted = true → s.state = .awaitingSync → b ≠ 0xA8#8 →
    exec (.byteDrop b t) s = .next { s with out := .byte .syncMiss }

/-- R122: BYTE.STATUS, for every value of the byte. -/
def Obligations.ByteStatusStoresTheStatus : Prop :=
  ∀ (s : State) (b : Byte) (t : Nat), s.booted = true → s.state = .readingStatus → s.idx = 1 →
    ∃ s', exec (.byteStatus b t) s = .next s' ∧
      s'.state = .readingLength ∧ s'.idx = 2 ∧ s'.len = s.len ∧ s'.lastT = t % 2 ^ s.cfg.timeW ∧
      StoredAt s s' 1 b ∧ SameSnapshot s s' ∧ SameCounters s s' ∧ SameSetting s s' ∧ s'.out = .byte .none

/-- R123 (decisions D11 and D18): BYTE.LEN_BAD aborts, counts a protocol error modulo `2^32`, and leaves the snapshot.
-/
def Obligations.OversizedLengthAborts : Prop :=
  ∀ (s : State) (b : Byte) (t : Nat), s.booted = true → s.state = .readingLength → s.idx = 2 →
    s.cfg.maxPayload < b.toNat →
    ∃ s', exec (.byteLenBad b t) s = .next s' ∧
      s'.state = .awaitingSync ∧ s'.idx = 3 ∧ s'.len = b ∧ s'.lastT = t % 2 ^ s.cfg.timeW ∧
      s'.lenErr.toNat = (s.lenErr.toNat + 1) % 2 ^ 32 ∧ s'.crcErr = s.crcErr ∧
      StoredAt s s' 2 b ∧ SameSnapshot s s' ∧ SameSetting s s' ∧ s'.out = .byte .lenOversize

/-- R124, R125 (decisions D9 and D10): a length from 1 to `MAX_PAYLOAD` (an odd one among them) leads to the payload,
and a length of 0 directly to the checksum. -/
def Obligations.AcceptedLengthIsStored : Prop :=
  ∀ (s : State) (b : Byte) (t : Nat), s.booted = true → s.state = .readingLength → s.idx = 2 →
    (1 ≤ b.toNat → b.toNat ≤ s.cfg.maxPayload →
      ∃ s', exec (.byteLen b t) s = .next s' ∧
        s'.state = .readingPayload ∧ s'.idx = 3 ∧ s'.len = b ∧ s'.lastT = t % 2 ^ s.cfg.timeW ∧
        StoredAt s s' 2 b ∧ SameSnapshot s s' ∧ SameCounters s s' ∧ SameSetting s s' ∧ s'.out = .byte .none) ∧
    (∃ s', exec (.byteLen0 t) s = .next s' ∧
        s'.state = .readingChecksum ∧ s'.idx = 3 ∧ s'.len = 0#8 ∧ s'.lastT = t % 2 ^ s.cfg.timeW ∧
        StoredAt s s' 2 0#8 ∧ SameSnapshot s s' ∧ SameCounters s s' ∧ SameSetting s s' ∧ s'.out = .byte .none)

/-- R126: BYTE.PAY stores the byte at `s.idx`, and the `L`-th payload byte moves the state to `ReadingChecksum` in the
same operation. -/
def Obligations.PayloadByteIsAppended : Prop :=
  ∀ (s : State) (b : Byte) (t : Nat), s.booted = true → s.state = .readingPayload → s.idx < 5 + s.cfg.maxPayload →
    ∃ s', exec (.bytePay b t) s = .next s' ∧
      (s.idx + 1 = 3 + s.len.toNat → s'.state = .readingChecksum) ∧
      (s.idx + 1 ≠ 3 + s.len.toNat → s'.state = .readingPayload) ∧
      s'.idx = s.idx + 1 ∧ s'.len = s.len ∧ s'.lastT = t % 2 ^ s.cfg.timeW ∧
      StoredAt s s' s.idx b ∧ SameSnapshot s s' ∧ SameCounters s s' ∧ SameSetting s s' ∧ s'.out = .byte .none

/-- R127: BYTE.CK_HI stores the checksum's high byte at `3 + L`, and the state stays `ReadingChecksum`. -/
def Obligations.ChecksumHighByteIsStored : Prop :=
  ∀ (s : State) (b : Byte) (t : Nat), s.booted = true → s.state = .readingChecksum → s.idx = 3 + s.len.toNat →
    s.len.toNat ≤ s.cfg.maxPayload →
    ∃ s', exec (.byteCkHi b t) s = .next s' ∧
      s'.state = .readingChecksum ∧ s'.idx = 4 + s.len.toNat ∧ s'.len = s.len ∧ s'.lastT = t % 2 ^ s.cfg.timeW ∧
      StoredAt s s' (3 + s.len.toNat) b ∧ SameSnapshot s s' ∧ SameCounters s s' ∧ SameSetting s s' ∧
      s'.out = .byte .none

/-- R128, R129: the completion stores the checksum's low byte at `4 + L` and returns to `AwaitingSync` in both
outcomes. When the checksum of sync, status, length and payload is the received 16-bit value, it publishes the frame
that the buffer holds; otherwise it counts one mismatch modulo `2^32` and leaves the snapshot and the publish state, a
report that is still pending among them. That a status of `0xA8` is published as failsafe is the model's choice (log
entry 21). -/
def Obligations.CompletionPublishesOrDiscards : Prop :=
  ∀ (s : State) (b status hi : Byte) (payload : List Byte) (t : Nat),
    s.booted = true → s.state = .readingChecksum → s.idx = 4 + s.len.toNat → s.len.toNat ≤ s.cfg.maxPayload →
    payload.length = s.len.toNat →
    HoldsBytes s 0 ([0xA8#8, status, s.len] ++ payload ++ [hi]) →
    ∃ s', exec (.byteCkLo b t) s = .next s' ∧
      s'.state = .awaitingSync ∧ s'.idx = 5 + s.len.toNat ∧ s'.len = s.len ∧ s'.lastT = t % 2 ^ s.cfg.timeW ∧
      StoredAt s s' (4 + s.len.toNat) b ∧ SameSetting s s' ∧
      (crc16 ([0xA8#8, status, s.len] ++ payload) = hi ++ b →
        Published s s' status payload ∧ SameCounters s s' ∧ s'.out = .byte .frameOk) ∧
      (crc16 ([0xA8#8, status, s.len] ++ payload) ≠ hi ++ b →
        SameSnapshot s s' ∧ s'.crcErr.toNat = (s.crcErr.toNat + 1) % 2 ^ 32 ∧ s'.lenErr = s.lenErr ∧
          s'.out = .byte .crcMismatch)

/-- Inside a frame every byte is stored at the next position, the sync value and every other value alike, whatever its
arrival time is: it advances the position by one, becomes the byte that the watchdog counts from, and starts no frame
(R131 and R39, inferences of the spec, and the hazard of R240 that a byte after a long gap joins the old frame). -/
def Obligations.EveryByteInsideAFrameIsStored : Prop :=
  ∀ (s : State) (b : Byte) (t : Nat), s.Inv → s.booted = true → s.state ≠ .awaitingSync →
    ∃ s', exec (.byte b t) s = .next s' ∧ StoredAt s s' s.idx b ∧ s'.idx = s.idx + 1 ∧
      s'.lastT = t % 2 ^ s.cfg.timeW ∧ s'.state ≠ .readingStatus ∧ SameSetting s s'

/-- R22 (decision D9): the decoder state moves forward within a frame, with the one skip of a zero length, or returns
to `AwaitingSync`. -/
def Obligations.DecoderStateMovesForward : Prop :=
  ∀ (i : Instr) (s s' : State), exec i s = .next s' →
    s'.state = .awaitingSync ∨ s'.state = s.state ∨
    (s.state = .awaitingSync ∧ s'.state = .readingStatus) ∨
    (s.state = .readingStatus ∧ s'.state = .readingLength) ∨
    (s.state = .readingLength ∧ s'.state = .readingPayload) ∨
    (s.state = .readingLength ∧ s'.state = .readingChecksum ∧ s'.len = 0#8) ∨
    (s.state = .readingPayload ∧ s'.state = .readingChecksum)

/-- Bytes other than the sync byte are dropped in `AwaitingSync`, however many there are: nothing but the latest
result changes (R121). -/
def Obligations.NoiseBetweenFramesChangesNothing : Prop :=
  ∀ (bs : List Byte) (ts : List Nat) (s : State), s.booted = true → s.state = .awaitingSync →
    bs ≠ [] → bs.length = ts.length → (∀ b ∈ bs, b ≠ 0xA8#8) →
    runOps (bytesAt bs ts) s = .next { s with out := .byte .syncMiss }

/-! ## The checksum unit (`40_checksum.md`) -/

/-- R100, R101: CRC16.STEP completes in every state, reads and writes no state, and is the bit-serial CRC with
polynomial `0x1021`, most significant bit of the byte first. `crc16` runs the bits of the whole sequence through it,
byte after byte, from the initial value `0x0000`, which is the checksum of the empty sequence; nothing is reflected and
nothing is applied to the result. -/
def Obligations.CrcStepIsBitSerial : Prop :=
  (∀ (acc : Word) (b : Byte) (s : State),
    exec (.crc16Step acc b) s = .next { s with out := .crc ((bitsMsbFirst b).foldl crcBit acc) }) ∧
  crc16 [] = 0x0000#16 ∧
  ∀ bs : List Byte, crc16 bs = (bs.flatMap bitsMsbFirst).foldl crcBit 0x0000#16

/-- Appending a sequence's checksum, high byte first, gives a sequence whose checksum is 0. -/
def Obligations.ChecksumOfCheckedSequenceIsZero : Prop :=
  ∀ bs : List Byte, crc16 (bs ++ [hiByte (crc16 bs), loByte (crc16 bs)]) = 0#16

/-- The checksum tells apart any two sequences that differ in one byte. -/
def Obligations.ChecksumDetectsOneAlteredByte : Prop :=
  ∀ (xs ys : List Byte) (a b : Byte), a ≠ b → crc16 (xs ++ a :: ys) ≠ crc16 (xs ++ b :: ys)

/-- R104 (decision D31, log entry 13): an accumulator register, set to the step of the sync byte on a sync match and
updated with every status, length and payload byte, equals the checksum of the frame so far; so comparing it at
completion gives the same result as R103. -/
def Obligations.RunningAccumulatorIsEquivalent : Prop :=
  ∀ (s s' : State) (acc : Word) (b : Byte) (t : Nat), s.Inv → AccHolds acc s → exec (.byte b t) s = .next s' →
    AccHolds (accNext acc s b) s' ∧
    (s.state = .readingChecksum → s.idx = 4 + s.len.toNat → ∀ hi, byteAt s (3 + s.len.toNat) = hi →
      (s'.out = .byte .frameOk ↔ acc = hi ++ b) ∧ (s'.out = .byte .crcMismatch ↔ acc ≠ hi ++ b))

/-! ## The channel decoder and PUBLISH (`42_channel_decoder.md`) -/

/-- PUBLISH (R155), as the internal operation it is, on the frame whose status and payload the buffer holds. Whatever the
publish state was, it is replaced (R156). That it has this effect in every state after the first reset, where R150 runs
it only at a valid completion (log entry 8), also on free values of the buffer (log entry 5), and that a status of
`0xA8` is failsafe (log entry 21), is the model's choice. -/
def Obligations.PublishUpdatesTheSnapshot : Prop :=
  ∀ (s : State) (status : Byte) (payload : List Byte), s.booted = true →
    s.len.toNat ≤ s.cfg.maxPayload → payload.length = s.len.toNat →
    byteAt s 1 = status → HoldsBytes s 3 payload →
    ∃ s', exec .publish s = .next s' ∧ Published s s' status payload ∧ SameFrame s s' ∧
      SameCounters s s' ∧ SameSetting s s' ∧ s'.out = s.out

/-- R152: a decoded value is `raw div 8`, which is `raw >> 3`, lies in `0 .. 8191`, and has bits `[15:13] = 0`. -/
def Obligations.MicrosecondsIsRawDivEight : Prop :=
  ∀ raw : Word, (microseconds raw).toNat = raw.toNat / 8 ∧ microseconds raw = raw >>> 3 ∧
    (microseconds raw).toNat ≤ 8191 ∧ (microseconds raw).extractLsb' 13 3 = 0#3

/-- R40: of the operations the environment presents, only INIT and the publish of the frame that the buffer holds, at
its completion, write the channel values, `fs` and `valid`, and a publish replaces them and `s.pub` as a whole, in the
one step. Only those two and a POLL that reports write `s.pub`. That a status of `0xA8` is published as failsafe is the
model's choice (log entry 21). -/
def Obligations.OnlyPublishAndInitWriteTheSnapshot : Prop :=
  ∀ (i : Instr) (s s' : State), i.presented ≠ none → exec i s = .next s' →
    SameSnapshot s s' ∨
    (s'.ch = s.ch ∧ s'.fs = s.fs ∧ s'.valid = s.valid ∧ s.pub ≠ .nothingNew ∧ s'.pub = .nothingNew ∧
      s'.out = .poll s.pub .none) ∨
    (∃ attached, i = .init attached) ∨
    (s.state = .readingChecksum ∧ s.idx = 4 + s.len.toNat ∧ s'.state = .awaitingSync ∧ s'.out = .byte .frameOk ∧
      ∃ status payload, payload.length = s.len.toNat ∧ byteAt s 1 = status ∧ HoldsBytes s 3 payload ∧
        Published s s' status payload)

/-- R32 (decision D18, log entry 12): `len_err` counts the oversized lengths and `crc_err` the checksum mismatches,
each modulo `2^32`; no other operation but INIT touches either. -/
def Obligations.CountersCountTheirEvents : Prop :=
  ∀ (i : Instr) (s s' : State), i.presented ≠ none → exec i s = .next s' → (∀ attached, i ≠ .init attached) →
    (s'.out.evt = some .lenOversize → s'.lenErr.toNat = (s.lenErr.toNat + 1) % 2 ^ 32) ∧
    (s'.out.evt ≠ some .lenOversize → s'.lenErr = s.lenErr) ∧
    (s'.out.evt = some .crcMismatch → s'.crcErr.toNat = (s.crcErr.toNat + 1) % 2 ^ 32) ∧
    (s'.out.evt ≠ some .crcMismatch → s'.crcErr = s.crcErr)

/-! ## POLL (`43_status_watchdog.md`) -/

/-- R171: POLL.REPORT returns the publish state and clears it, and does not run the watchdog. -/
def Obligations.PollReportsOnce : Prop :=
  ∀ (s : State) (now : Nat), s.booted = true → s.pub ≠ .nothingNew →
    exec (.pollReport now) s = .next { s with pub := .nothingNew, out := .poll s.pub .none }

/-- R172: POLL.STALE returns the decoder to `AwaitingSync` when the time since the last accepted byte, modulo
`2^TIME_W`, exceeds the threshold. -/
def Obligations.StalePollAbortsTheFrame : Prop :=
  ∀ (s : State) (now : Nat), s.booted = true → s.pub = .nothingNew → s.state ≠ .awaitingSync →
    ((now : Int) - s.lastT) % (2 ^ s.cfg.timeW : Nat) > s.cfg.staleThreshold →
    exec (.pollStale now) s = .next { s with state := .awaitingSync, out := .poll .nothingNew .staleAbort }

/-- R173: POLL.IDLE returns NothingNew and changes no state; an elapsed time equal to the threshold is this case. -/
def Obligations.IdlePollChangesNothing : Prop :=
  ∀ (s : State) (now : Nat), s.booted = true → s.pub = .nothingNew →
    (s.state = .awaitingSync ∨ ((now : Int) - s.lastT) % (2 ^ s.cfg.timeW : Nat) ≤ s.cfg.staleThreshold) →
    exec (.pollIdle now) s = .next { s with out := .poll .nothingNew .none }

/-- R170, R175: POLL reports first, then checks for a stale frame, then is idle. It completes in every state. -/
def Obligations.PollPrecedence : Prop :=
  ∀ (s : State) (now : Nat), s.booted = true →
    let elapsed : Int := ((now : Int) - s.lastT) % (2 ^ s.cfg.timeW : Nat)
    (s.pub ≠ .nothingNew → exec (.poll now) s = .next { s with pub := .nothingNew, out := .poll s.pub .none }) ∧
    (s.pub = .nothingNew → s.state ≠ .awaitingSync → elapsed > s.cfg.staleThreshold →
      exec (.poll now) s = .next { s with state := .awaitingSync, out := .poll .nothingNew .staleAbort }) ∧
    (s.pub = .nothingNew → s.state = .awaitingSync ∨ elapsed ≤ s.cfg.staleThreshold →
      exec (.poll now) s = .next { s with out := .poll .nothingNew .none })

/-- A completed frame is reported exactly once (`95_test_vectors.md` W0, property 2): after any POLL, a second one,
with no operation between them, returns NothingNew. -/
def Obligations.SecondPollReturnsNothingNew : Prop :=
  ∀ (s s' s'' : State) (now now' : Nat), exec (.poll now) s = .next s' → exec (.poll now') s' = .next s'' →
    ∃ evt, s''.out = .poll .nothingNew evt

/-- R174 (decision D7): the elapsed time is right across any number of wraps as far as `TIME_W` bits show it, and a
`now` a little before the last byte reads as a large elapsed time, which is stale. -/
def Obligations.ElapsedTimeIsModular : Prop :=
  ∀ (c : Config) (last gap : Nat),
    elapsed c ((last + gap) % c.timeSpan) (last % c.timeSpan) = gap % c.timeSpan ∧
    (1 ≤ gap → gap < c.timeSpan - c.staleThreshold →
      c.staleThreshold < elapsed c (last % c.timeSpan) ((last + gap) % c.timeSpan))

/-- R241 (an inference of the spec): with the threshold at `2^TIME_W - 1`, no POLL ever aborts a frame. -/
def Obligations.LargestThresholdNeverAborts : Prop :=
  ∀ (s s' : State) (now : Nat), s.cfg.staleThreshold + 1 = s.cfg.timeSpan → exec (.poll now) s = .next s' →
    s'.state = s.state

/-! ## READ (`43_status_watchdog.md`) -/

/-- R177 (decisions D14 and D30, log entry 10): READ, and its cases: an index in range returns the entry, one out of
range is rejected; no state changes. -/
def Obligations.ReadReturnsThePublishedEntry : Prop :=
  ∀ (s : State) (i : Byte), s.booted = true → s.ch.length = s.cfg.maxChannels →
    (∀ v, i.toNat < s.cfg.maxChannels → s.ch[i.toNat]? = some v →
      exec (.read i) s = .next { s with out := .read false v .none } ∧ exec (.readOk i) s = exec (.read i) s) ∧
    (i.toNat < s.cfg.maxChannels → ∃ v, s.ch[i.toNat]? = some v) ∧
    (s.cfg.maxChannels ≤ i.toNat →
      exec (.read i) s = .next { s with out := .read true 0#16 .indexRange } ∧ exec (.readBad i) s = exec (.read i) s)

/-- R178: the result READ returns and the status POLL returns do not depend on the frame in progress: two states with
the same configuration, snapshot and publish state get the same channel value and the same status, whatever their
frames, buffers and times are. The event POLL returns beside the status does depend on the frame: it tells whether the
watchdog aborted it (R172, R173). -/
def Obligations.ReadResultAndPollStatusIgnoreTheFrameInProgress : Prop :=
  ∀ s s' : State, s'.cfg = s.cfg → s'.booted = s.booted → SameSnapshot s s' →
    (∀ i r, exec (.read i) s = .next r → ∃ r', exec (.read i) s' = .next r' ∧ r'.out = r.out) ∧
    (∀ now r status evt, exec (.poll now) s = .next r → r.out = .poll status evt →
      ∃ r' evt', exec (.poll now) s' = .next r' ∧ r'.out = .poll status evt')

/-- A BYTE that completes no frame commutes with a READ: in both orders the READ returns the same, and the state is
the same but for the latest result (R206 names a publish as the case in which the order decides). -/
def Obligations.ReadCommutesWithUnpublishedByte : Prop :=
  ∀ (s s₁ s₂ r₁ r₂ : State) (b i : Byte) (t : Nat),
    exec (.byte b t) s = .next s₁ → exec (.read i) s₁ = .next s₂ →
    exec (.read i) s = .next r₁ → exec (.byte b t) r₁ = .next r₂ →
    s₁.out ≠ .byte .frameOk →
    s₂.out = r₁.out ∧ r₂.out = s₁.out ∧ { s₂ with out := r₂.out } = r₂

/-! ## Errors and result codes -/

/-- R77, R201 (decision D32): which event each diagnostic code reports, for every operation and case the environment
can present. A completion reports CRC_MISMATCH where the checksum of the stored sync, status, length and payload bytes
differs from the received value, and FRAME_OK where it does not. Every operation returns a code. -/
def Obligations.EventCodeTellsItsCause : Prop :=
  ∀ (i w : Instr) (s s' : State), i.presented = some w → exec i s = .next s' →
    (s'.out.evt = some .syncMiss ↔ ∃ b t, w = .byte b t ∧ s.state = .awaitingSync ∧ b ≠ 0xA8#8) ∧
    (s'.out.evt = some .lenOversize ↔ ∃ b t, w = .byte b t ∧ s.state = .readingLength ∧ s.cfg.maxPayload < b.toNat) ∧
    (s'.out.evt = some .staleAbort ↔ ∃ now, w = .poll now ∧ s.pub = .nothingNew ∧ s.state ≠ .awaitingSync ∧
      ((now : Int) - s.lastT) % (2 ^ s.cfg.timeW : Nat) > s.cfg.staleThreshold) ∧
    (s'.out.evt = some .indexRange ↔ ∃ k, w = .read k ∧ s.cfg.maxChannels ≤ k.toNat) ∧
    (s'.out.evt = some .crcMismatch ↔ ∃ b t body hi, w = .byte b t ∧ s.state = .readingChecksum ∧
      s.idx = 4 + s.len.toNat ∧ body.length = 3 + s.len.toNat ∧ HoldsBytes s 0 (body ++ [hi]) ∧
      crc16 body ≠ hi ++ b) ∧
    (s'.out.evt = some .frameOk ↔ ∃ b t body hi, w = .byte b t ∧ s.state = .readingChecksum ∧
      s.idx = 4 + s.len.toNat ∧ body.length = 3 + s.len.toNat ∧ HoldsBytes s 0 (body ++ [hi]) ∧
      crc16 body = hi ++ b) ∧
    (∃ evt, s'.out.evt = some evt)

/-- R75, R21, R77 (decisions D4, D2, D32): the codes of the publish state (code `11` is no publish state), of the
decoder state (codes 5 to 7 never occur) and of the diagnostic event (code 7 is never produced). -/
def Obligations.CodesAreThoseOfTheSpec : Prop :=
  PublishState.nothingNew.code = 0b00#2 ∧ PublishState.complete.code = 0b01#2 ∧
  PublishState.completeWithFailsafe.code = 0b10#2 ∧
  (∀ p : PublishState, PublishState.ofCode p.code = some p) ∧ PublishState.ofCode 0b11#2 = none ∧
  DecoderState.awaitingSync.code = 0#3 ∧ DecoderState.readingStatus.code = 1#3 ∧
  DecoderState.readingLength.code = 2#3 ∧ DecoderState.readingPayload.code = 3#3 ∧
  DecoderState.readingChecksum.code = 4#3 ∧ (∀ d : DecoderState, d.code.toNat < 5) ∧
  Evt.none.code = 0#3 ∧ Evt.syncMiss.code = 1#3 ∧ Evt.lenOversize.code = 2#3 ∧ Evt.crcMismatch.code = 3#3 ∧
  Evt.staleAbort.code = 4#3 ∧ Evt.indexRange.code = 5#3 ∧ Evt.frameOk.code = 6#3 ∧ (∀ e : Evt, e.code ≠ 7#3)

/-! ## Whole frames -/

/-- Every valid frame is decoded and published (`95_test_vectors.md` W0, properties 1 and 5): from `AwaitingSync`, the
bytes of a frame with any status and any payload of at most `MAX_PAYLOAD` bytes, at any times, end in a publish of
that status and payload; channels the frame does not carry keep their values. That a status of `0xA8` is published as
failsafe is the model's choice (log entry 21). -/
def Obligations.ValidFrameIsPublished : Prop :=
  ∀ (s : State) (status : Byte) (payload : List Byte) (ts : List Nat), s.Inv → s.booted = true →
    s.state = .awaitingSync → payload.length ≤ s.cfg.maxPayload →
    ts.length = (wireFrame status payload).length →
    ∃ s', runOps (bytesAt (wireFrame status payload) ts) s = .next s' ∧ s'.out = .byte .frameOk ∧
      s'.state = .awaitingSync ∧ Published s s' status payload ∧ SameCounters s s' ∧ SameSetting s s' ∧ s'.Inv

/-- A frame whose two checksum bytes are not the checksum of its body is discarded (`95_test_vectors.md` W0, property
3): the published values and the publish state stay, and the mismatch is counted. -/
def Obligations.FrameWithWrongChecksumIsDiscarded : Prop :=
  ∀ (s : State) (status hi lo : Byte) (payload : List Byte) (ts : List Nat), s.Inv → s.booted = true →
    s.state = .awaitingSync → payload.length ≤ s.cfg.maxPayload →
    crc16 (frameBody status payload) ≠ hi ++ lo →
    ts.length = (frameBody status payload ++ [hi, lo]).length →
    ∃ s', runOps (bytesAt (frameBody status payload ++ [hi, lo]) ts) s = .next s' ∧ s'.out = .byte .crcMismatch ∧
      s'.state = .awaitingSync ∧ SameSnapshot s s' ∧ s'.crcErr = s.crcErr + 1#32 ∧ s'.lenErr = s.lenErr ∧
      SameSetting s s' ∧ s'.Inv

/-- A frame in which one payload byte is altered, its checksum kept, is always discarded (`95_test_vectors.md` W2). -/
def Obligations.FrameWithOneAlteredPayloadByteIsDiscarded : Prop :=
  ∀ (s : State) (status a b : Byte) (xs ys : List Byte) (ts : List Nat), s.Inv → s.booted = true →
    s.state = .awaitingSync → a ≠ b → (xs ++ a :: ys).length ≤ s.cfg.maxPayload →
    let good := crc16 (frameBody status (xs ++ a :: ys))
    let bad := frameBody status (xs ++ b :: ys) ++ [hiByte good, loByte good]
    ts.length = bad.length →
    ∃ s', runOps (bytesAt bad ts) s = .next s' ∧ s'.out = .byte .crcMismatch ∧ s'.state = .awaitingSync ∧
      SameSnapshot s s'

/-- Resynchronization (`95_test_vectors.md` W0, property 4, with the POLL that `70_reset_and_hazards.md` rule R240
requires): a POLL that finds the partial frame stale, then a fresh frame, decode the fresh frame. That a status of
`0xA8` is published as failsafe is the model's choice (log entry 21). -/
def Obligations.FreshFrameAfterStalePollIsDecoded : Prop :=
  ∀ (s : State) (now : Nat) (status : Byte) (payload : List Byte) (ts : List Nat), s.Inv → s.booted = true →
    s.state ≠ .awaitingSync → s.pub = .nothingNew →
    ((now : Int) - s.lastT) % (2 ^ s.cfg.timeW : Nat) > s.cfg.staleThreshold →
    payload.length ≤ s.cfg.maxPayload → ts.length = (wireFrame status payload).length →
    ∃ s', runOps (.poll now :: bytesAt (wireFrame status payload) ts) s = .next s' ∧ s'.out = .byte .frameOk ∧
      s'.state = .awaitingSync ∧ Published s s' status payload ∧ SameCounters s s' ∧ SameSetting s s'

/-- R25, R39 (decision D12 and inferences of the spec): what is left in the buffer, in the position, the length and
the timestamp when a frame is over, and the buffer from `s.idx` on while one is in progress, are never read. States
that differ in nothing else take the same step to states that again differ in nothing else, and return the same
result. The draw of the free values that unwritten buffer entries hold (log entry 5) may differ as well. -/
def Obligations.LeftoverFrameIsNeverRead : Prop :=
  ∀ s r : State, s.Inv → r.Inv → FrameEquiv s r →
    (∀ s', step s = .next s' → ∃ r', step r = .next r' ∧ FrameEquiv s' r') ∧
    (∀ why, step s = .refused why → step r = .refused why)
end

