-- ==== Sys2Proof/Laws/State.lean ====
section
/-! SUPPORT. One lemma for each field and each named update of the state: what the field holds after it. -/

namespace Sys2Proof.Machine

/-! ## respond: the result record -/

@[simp] theorem respond_cfg (s : State) (r : Result) : (respond s r).cfg = s.cfg := rfl
@[simp] theorem respond_state (s : State) (r : Result) : (respond s r).state = s.state := rfl
@[simp] theorem respond_buf (s : State) (r : Result) : (respond s r).buf = s.buf := rfl
@[simp] theorem respond_idx (s : State) (r : Result) : (respond s r).idx = s.idx := rfl
@[simp] theorem respond_len (s : State) (r : Result) : (respond s r).len = s.len := rfl
@[simp] theorem respond_lastT (s : State) (r : Result) : (respond s r).lastT = s.lastT := rfl
@[simp] theorem respond_ch (s : State) (r : Result) : (respond s r).ch = s.ch := rfl
@[simp] theorem respond_fs (s : State) (r : Result) : (respond s r).fs = s.fs := rfl
@[simp] theorem respond_valid (s : State) (r : Result) : (respond s r).valid = s.valid := rfl
@[simp] theorem respond_pub (s : State) (r : Result) : (respond s r).pub = s.pub := rfl
@[simp] theorem respond_lenErr (s : State) (r : Result) : (respond s r).lenErr = s.lenErr := rfl
@[simp] theorem respond_crcErr (s : State) (r : Result) : (respond s r).crcErr = s.crcErr := rfl
@[simp] theorem respond_booted (s : State) (r : Result) : (respond s r).booted = s.booted := rfl
@[simp] theorem respond_bufDraw (s : State) (r : Result) : (respond s r).bufDraw = s.bufDraw := rfl
@[simp] theorem respond_out (s : State) (r : Result) : (respond s r).out = r := rfl
@[simp] theorem respond_env (s : State) (r : Result) : (respond s r).env = s.env := rfl

/-! ## clearFrame: the logical clear -/

@[simp] theorem clearFrame_cfg (s : State) : (clearFrame s).cfg = s.cfg := rfl
@[simp] theorem clearFrame_state (s : State) : (clearFrame s).state = s.state := rfl
@[simp] theorem clearFrame_buf (s : State) : (clearFrame s).buf = s.buf := rfl
@[simp] theorem clearFrame_idx (s : State) : (clearFrame s).idx = 0 := rfl
@[simp] theorem clearFrame_len (s : State) : (clearFrame s).len = s.len := rfl
@[simp] theorem clearFrame_lastT (s : State) : (clearFrame s).lastT = s.lastT := rfl
@[simp] theorem clearFrame_ch (s : State) : (clearFrame s).ch = s.ch := rfl
@[simp] theorem clearFrame_fs (s : State) : (clearFrame s).fs = s.fs := rfl
@[simp] theorem clearFrame_valid (s : State) : (clearFrame s).valid = s.valid := rfl
@[simp] theorem clearFrame_pub (s : State) : (clearFrame s).pub = s.pub := rfl
@[simp] theorem clearFrame_lenErr (s : State) : (clearFrame s).lenErr = s.lenErr := rfl
@[simp] theorem clearFrame_crcErr (s : State) : (clearFrame s).crcErr = s.crcErr := rfl
@[simp] theorem clearFrame_booted (s : State) : (clearFrame s).booted = s.booted := rfl
@[simp] theorem clearFrame_bufDraw (s : State) : (clearFrame s).bufDraw = s.bufDraw := rfl
@[simp] theorem clearFrame_out (s : State) : (clearFrame s).out = s.out := rfl
@[simp] theorem clearFrame_env (s : State) : (clearFrame s).env = s.env := rfl

/-! ## resync: the return to AwaitingSync -/

@[simp] theorem resync_cfg (s : State) : (resync s).cfg = s.cfg := rfl
@[simp] theorem resync_state (s : State) : (resync s).state = .awaitingSync := rfl
@[simp] theorem resync_buf (s : State) : (resync s).buf = s.buf := rfl
@[simp] theorem resync_idx (s : State) : (resync s).idx = s.idx := rfl
@[simp] theorem resync_len (s : State) : (resync s).len = s.len := rfl
@[simp] theorem resync_lastT (s : State) : (resync s).lastT = s.lastT := rfl
@[simp] theorem resync_ch (s : State) : (resync s).ch = s.ch := rfl
@[simp] theorem resync_fs (s : State) : (resync s).fs = s.fs := rfl
@[simp] theorem resync_valid (s : State) : (resync s).valid = s.valid := rfl
@[simp] theorem resync_pub (s : State) : (resync s).pub = s.pub := rfl
@[simp] theorem resync_lenErr (s : State) : (resync s).lenErr = s.lenErr := rfl
@[simp] theorem resync_crcErr (s : State) : (resync s).crcErr = s.crcErr := rfl
@[simp] theorem resync_booted (s : State) : (resync s).booted = s.booted := rfl
@[simp] theorem resync_bufDraw (s : State) : (resync s).bufDraw = s.bufDraw := rfl
@[simp] theorem resync_out (s : State) : (resync s).out = s.out := rfl
@[simp] theorem resync_env (s : State) : (resync s).env = s.env := rfl

/-! ## stored: one accepted byte -/

/-- The state with one more byte of the frame accepted. -/
def stored (s : State) (b : Byte) (t : Nat) : State :=
  { s with buf := s.buf.write s.idx b, idx := s.idx + 1, lastT := portTime s.cfg t }

@[simp] theorem stored_cfg (s : State) (b : Byte) (t : Nat) : (stored s b t).cfg = s.cfg := rfl
@[simp] theorem stored_state (s : State) (b : Byte) (t : Nat) : (stored s b t).state = s.state := rfl
@[simp] theorem stored_buf (s : State) (b : Byte) (t : Nat) : (stored s b t).buf = s.buf.write s.idx b := rfl
@[simp] theorem stored_idx (s : State) (b : Byte) (t : Nat) : (stored s b t).idx = s.idx + 1 := rfl
@[simp] theorem stored_len (s : State) (b : Byte) (t : Nat) : (stored s b t).len = s.len := rfl
@[simp] theorem stored_lastT (s : State) (b : Byte) (t : Nat) : (stored s b t).lastT = portTime s.cfg t := rfl
@[simp] theorem stored_ch (s : State) (b : Byte) (t : Nat) : (stored s b t).ch = s.ch := rfl
@[simp] theorem stored_fs (s : State) (b : Byte) (t : Nat) : (stored s b t).fs = s.fs := rfl
@[simp] theorem stored_valid (s : State) (b : Byte) (t : Nat) : (stored s b t).valid = s.valid := rfl
@[simp] theorem stored_pub (s : State) (b : Byte) (t : Nat) : (stored s b t).pub = s.pub := rfl
@[simp] theorem stored_lenErr (s : State) (b : Byte) (t : Nat) : (stored s b t).lenErr = s.lenErr := rfl
@[simp] theorem stored_crcErr (s : State) (b : Byte) (t : Nat) : (stored s b t).crcErr = s.crcErr := rfl
@[simp] theorem stored_booted (s : State) (b : Byte) (t : Nat) : (stored s b t).booted = s.booted := rfl
@[simp] theorem stored_bufDraw (s : State) (b : Byte) (t : Nat) : (stored s b t).bufDraw = s.bufDraw := rfl
@[simp] theorem stored_out (s : State) (b : Byte) (t : Nat) : (stored s b t).out = s.out := rfl
@[simp] theorem stored_env (s : State) (b : Byte) (t : Nat) : (stored s b t).env = s.env := rfl

/-! ## mismatch: a discarded frame -/

@[simp] theorem mismatch_cfg (s : State) : (mismatch s).cfg = s.cfg := rfl
@[simp] theorem mismatch_state (s : State) : (mismatch s).state = s.state := rfl
@[simp] theorem mismatch_buf (s : State) : (mismatch s).buf = s.buf := rfl
@[simp] theorem mismatch_idx (s : State) : (mismatch s).idx = s.idx := rfl
@[simp] theorem mismatch_len (s : State) : (mismatch s).len = s.len := rfl
@[simp] theorem mismatch_lastT (s : State) : (mismatch s).lastT = s.lastT := rfl
@[simp] theorem mismatch_ch (s : State) : (mismatch s).ch = s.ch := rfl
@[simp] theorem mismatch_fs (s : State) : (mismatch s).fs = s.fs := rfl
@[simp] theorem mismatch_valid (s : State) : (mismatch s).valid = s.valid := rfl
@[simp] theorem mismatch_pub (s : State) : (mismatch s).pub = s.pub := rfl
@[simp] theorem mismatch_lenErr (s : State) : (mismatch s).lenErr = s.lenErr := rfl
@[simp] theorem mismatch_crcErr (s : State) : (mismatch s).crcErr = countOne s.crcErr := rfl
@[simp] theorem mismatch_booted (s : State) : (mismatch s).booted = s.booted := rfl
@[simp] theorem mismatch_bufDraw (s : State) : (mismatch s).bufDraw = s.bufDraw := rfl
@[simp] theorem mismatch_out (s : State) : (mismatch s).out = s.out := rfl
@[simp] theorem mismatch_env (s : State) : (mismatch s).env = s.env := rfl

/-! ## reportStatus, abortFrame, reportNothing: the three ends of POLL -/

@[simp] theorem reportStatus_cfg (s : State) : (reportStatus s).cfg = s.cfg := rfl
@[simp] theorem reportStatus_state (s : State) : (reportStatus s).state = s.state := rfl
@[simp] theorem reportStatus_buf (s : State) : (reportStatus s).buf = s.buf := rfl
@[simp] theorem reportStatus_idx (s : State) : (reportStatus s).idx = s.idx := rfl
@[simp] theorem reportStatus_len (s : State) : (reportStatus s).len = s.len := rfl
@[simp] theorem reportStatus_lastT (s : State) : (reportStatus s).lastT = s.lastT := rfl
@[simp] theorem reportStatus_ch (s : State) : (reportStatus s).ch = s.ch := rfl
@[simp] theorem reportStatus_fs (s : State) : (reportStatus s).fs = s.fs := rfl
@[simp] theorem reportStatus_valid (s : State) : (reportStatus s).valid = s.valid := rfl
@[simp] theorem reportStatus_pub (s : State) : (reportStatus s).pub = .nothingNew := rfl
@[simp] theorem reportStatus_lenErr (s : State) : (reportStatus s).lenErr = s.lenErr := rfl
@[simp] theorem reportStatus_crcErr (s : State) : (reportStatus s).crcErr = s.crcErr := rfl
@[simp] theorem reportStatus_booted (s : State) : (reportStatus s).booted = s.booted := rfl
@[simp] theorem reportStatus_bufDraw (s : State) : (reportStatus s).bufDraw = s.bufDraw := rfl
@[simp] theorem reportStatus_out (s : State) : (reportStatus s).out = .poll s.pub .none := rfl
@[simp] theorem reportStatus_env (s : State) : (reportStatus s).env = s.env := rfl

@[simp] theorem abortFrame_cfg (s : State) : (abortFrame s).cfg = s.cfg := rfl
@[simp] theorem abortFrame_state (s : State) : (abortFrame s).state = .awaitingSync := rfl
@[simp] theorem abortFrame_buf (s : State) : (abortFrame s).buf = s.buf := rfl
@[simp] theorem abortFrame_idx (s : State) : (abortFrame s).idx = s.idx := rfl
@[simp] theorem abortFrame_len (s : State) : (abortFrame s).len = s.len := rfl
@[simp] theorem abortFrame_lastT (s : State) : (abortFrame s).lastT = s.lastT := rfl
@[simp] theorem abortFrame_ch (s : State) : (abortFrame s).ch = s.ch := rfl
@[simp] theorem abortFrame_fs (s : State) : (abortFrame s).fs = s.fs := rfl
@[simp] theorem abortFrame_valid (s : State) : (abortFrame s).valid = s.valid := rfl
@[simp] theorem abortFrame_pub (s : State) : (abortFrame s).pub = s.pub := rfl
@[simp] theorem abortFrame_lenErr (s : State) : (abortFrame s).lenErr = s.lenErr := rfl
@[simp] theorem abortFrame_crcErr (s : State) : (abortFrame s).crcErr = s.crcErr := rfl
@[simp] theorem abortFrame_booted (s : State) : (abortFrame s).booted = s.booted := rfl
@[simp] theorem abortFrame_bufDraw (s : State) : (abortFrame s).bufDraw = s.bufDraw := rfl
@[simp] theorem abortFrame_out (s : State) : (abortFrame s).out = .poll .nothingNew .staleAbort := rfl
@[simp] theorem abortFrame_env (s : State) : (abortFrame s).env = s.env := rfl

@[simp] theorem reportNothing_cfg (s : State) : (reportNothing s).cfg = s.cfg := rfl
@[simp] theorem reportNothing_state (s : State) : (reportNothing s).state = s.state := rfl
@[simp] theorem reportNothing_buf (s : State) : (reportNothing s).buf = s.buf := rfl
@[simp] theorem reportNothing_idx (s : State) : (reportNothing s).idx = s.idx := rfl
@[simp] theorem reportNothing_len (s : State) : (reportNothing s).len = s.len := rfl
@[simp] theorem reportNothing_lastT (s : State) : (reportNothing s).lastT = s.lastT := rfl
@[simp] theorem reportNothing_ch (s : State) : (reportNothing s).ch = s.ch := rfl
@[simp] theorem reportNothing_fs (s : State) : (reportNothing s).fs = s.fs := rfl
@[simp] theorem reportNothing_valid (s : State) : (reportNothing s).valid = s.valid := rfl
@[simp] theorem reportNothing_pub (s : State) : (reportNothing s).pub = s.pub := rfl
@[simp] theorem reportNothing_lenErr (s : State) : (reportNothing s).lenErr = s.lenErr := rfl
@[simp] theorem reportNothing_crcErr (s : State) : (reportNothing s).crcErr = s.crcErr := rfl
@[simp] theorem reportNothing_booted (s : State) : (reportNothing s).booted = s.booted := rfl
@[simp] theorem reportNothing_bufDraw (s : State) : (reportNothing s).bufDraw = s.bufDraw := rfl
@[simp] theorem reportNothing_out (s : State) : (reportNothing s).out = .poll .nothingNew .none := rfl
@[simp] theorem reportNothing_env (s : State) : (reportNothing s).env = s.env := rfl

/-! ## readReject -/

@[simp] theorem readReject_cfg (s : State) : (readReject s).cfg = s.cfg := rfl
@[simp] theorem readReject_state (s : State) : (readReject s).state = s.state := rfl
@[simp] theorem readReject_buf (s : State) : (readReject s).buf = s.buf := rfl
@[simp] theorem readReject_idx (s : State) : (readReject s).idx = s.idx := rfl
@[simp] theorem readReject_len (s : State) : (readReject s).len = s.len := rfl
@[simp] theorem readReject_lastT (s : State) : (readReject s).lastT = s.lastT := rfl
@[simp] theorem readReject_ch (s : State) : (readReject s).ch = s.ch := rfl
@[simp] theorem readReject_fs (s : State) : (readReject s).fs = s.fs := rfl
@[simp] theorem readReject_valid (s : State) : (readReject s).valid = s.valid := rfl
@[simp] theorem readReject_pub (s : State) : (readReject s).pub = s.pub := rfl
@[simp] theorem readReject_lenErr (s : State) : (readReject s).lenErr = s.lenErr := rfl
@[simp] theorem readReject_crcErr (s : State) : (readReject s).crcErr = s.crcErr := rfl
@[simp] theorem readReject_booted (s : State) : (readReject s).booted = s.booted := rfl
@[simp] theorem readReject_bufDraw (s : State) : (readReject s).bufDraw = s.bufDraw := rfl
@[simp] theorem readReject_out (s : State) : (readReject s).out = .read true 0#16 .indexRange := rfl
@[simp] theorem readReject_env (s : State) : (readReject s).env = s.env := rfl

/-! ## applyReset: hardware reset and INIT -/

@[simp] theorem applyReset_cfg (s : State) : (applyReset s).cfg = s.cfg := rfl
@[simp] theorem applyReset_state (s : State) : (applyReset s).state = .awaitingSync := rfl
@[simp] theorem applyReset_buf (s : State) : (applyReset s).buf = [] := rfl
@[simp] theorem applyReset_idx (s : State) : (applyReset s).idx = 0 := rfl
@[simp] theorem applyReset_len (s : State) : (applyReset s).len = 0#8 := rfl
@[simp] theorem applyReset_lastT (s : State) : (applyReset s).lastT = 0 := rfl
@[simp] theorem applyReset_ch (s : State) : (applyReset s).ch = List.replicate s.cfg.maxChannels s.cfg.chResetValue := rfl
@[simp] theorem applyReset_fs (s : State) : (applyReset s).fs = false := rfl
@[simp] theorem applyReset_valid (s : State) : (applyReset s).valid = false := rfl
@[simp] theorem applyReset_pub (s : State) : (applyReset s).pub = .nothingNew := rfl
@[simp] theorem applyReset_lenErr (s : State) : (applyReset s).lenErr = 0#32 := rfl
@[simp] theorem applyReset_crcErr (s : State) : (applyReset s).crcErr = 0#32 := rfl
@[simp] theorem applyReset_booted (s : State) : (applyReset s).booted = true := rfl
@[simp] theorem applyReset_bufDraw (s : State) : (applyReset s).bufDraw = s.bufDraw + 1 := rfl
@[simp] theorem applyReset_out (s : State) : (applyReset s).out = .none := rfl
@[simp] theorem applyReset_env (s : State) : (applyReset s).env = s.env := rfl

/-! ## State.resetFor -/

@[simp] theorem resetFor_cfg (c : Config) : (State.resetFor c).cfg = c := rfl
@[simp] theorem resetFor_state (c : Config) : (State.resetFor c).state = .awaitingSync := rfl
@[simp] theorem resetFor_buf (c : Config) : (State.resetFor c).buf = [] := rfl
@[simp] theorem resetFor_idx (c : Config) : (State.resetFor c).idx = 0 := rfl
@[simp] theorem resetFor_len (c : Config) : (State.resetFor c).len = 0#8 := rfl
@[simp] theorem resetFor_lastT (c : Config) : (State.resetFor c).lastT = 0 := rfl
@[simp] theorem resetFor_ch (c : Config) : (State.resetFor c).ch = List.replicate c.maxChannels c.chResetValue := rfl
@[simp] theorem resetFor_fs (c : Config) : (State.resetFor c).fs = false := rfl
@[simp] theorem resetFor_valid (c : Config) : (State.resetFor c).valid = false := rfl
@[simp] theorem resetFor_pub (c : Config) : (State.resetFor c).pub = .nothingNew := rfl
@[simp] theorem resetFor_lenErr (c : Config) : (State.resetFor c).lenErr = 0#32 := rfl
@[simp] theorem resetFor_crcErr (c : Config) : (State.resetFor c).crcErr = 0#32 := rfl
@[simp] theorem resetFor_booted (c : Config) : (State.resetFor c).booted = true := rfl
@[simp] theorem resetFor_bufDraw (c : Config) : (State.resetFor c).bufDraw = 0 := rfl
@[simp] theorem resetFor_out (c : Config) : (State.resetFor c).out = .none := rfl
@[simp] theorem resetFor_env (c : Config) : (State.resetFor c).env = { producer := [], consumer := [], initializer := [], turns := [] } := rfl

end Sys2Proof.Machine
end

