-- ==== Sys2Proof/Laws/Checksum.lean ====
section
/-! SUPPORT. The checksum as a left fold (`40_checksum.md` rules R101 and R104). -/

namespace Sys2Proof.Machine

@[simp] theorem crc16_nil : crc16 [] = crcInit := rfl

theorem crc16_append (xs ys : List Byte) : crc16 (xs ++ ys) = ys.foldl crc16Step (crc16 xs) := by
  simp [crc16]

theorem crc16_concat (xs : List Byte) (b : Byte) : crc16 (xs ++ [b]) = crc16Step (crc16 xs) b := by
  simp [crc16_append]

/-- A word is its two bytes. -/
theorem be16_hi_lo (v : Word) : be16 (hiByte v) (loByte v) = v := by
  apply BitVec.eq_of_toNat_eq
  have h : (be16 (hiByte v) (loByte v)).toNat = (hiByte v ++ loByte v).toNat := rfl
  have := v.isLt
  rw [h, BitVec.toNat_append, ← Nat.shiftLeft_add_eq_or_of_lt (loByte v).isLt]
  simp only [hiByte, loByte, BitVec.extractLsb'_toNat, Nat.shiftLeft_eq, Nat.shiftRight_eq_div_pow]
  omega

theorem be16_toNat (h l : Byte) : (be16 h l).toNat = h.toNat * 256 + l.toNat := by
  have e : (be16 h l).toNat = (h ++ l).toNat := rfl
  rw [e, BitVec.toNat_append, ← Nat.shiftLeft_add_eq_or_of_lt l.isLt]
  simp [Nat.shiftLeft_eq]

/-- Two words are the same when their two bytes are. -/
theorem be16_inj {h l h' l' : Byte} : be16 h l = be16 h' l' ↔ h = h' ∧ l = l' := by
  constructor
  · intro e
    have e := congrArg BitVec.toNat e
    have := h.isLt
    have := l.isLt
    have := h'.isLt
    have := l'.isLt
    rw [be16_toNat, be16_toNat] at e
    constructor <;> apply BitVec.eq_of_toNat_eq <;> omega
  · rintro ⟨rfl, rfl⟩
    rfl

end Sys2Proof.Machine
end

