-- ==== Sys2Proof/Laws/Decode.lean ====
section
/-! SUPPORT. The fields of a command word as arithmetic on the word, and the fields of a word made from fields. -/

namespace Sys2Proof

theorem opField_eq (cw : BitVec 16) : opField cw = BitVec.ofNat 2 cw.toNat := by
  apply BitVec.eq_of_toNat_eq
  simp [opField]

theorem argField_eq (cw : BitVec 16) : argField cw = BitVec.ofNat 8 (cw.toNat / 4) := by
  apply BitVec.eq_of_toNat_eq
  simp [argField, Nat.shiftRight_eq_div_pow]

theorem opField_iff (cw : BitVec 16) (k : Nat) (hk : k < 4) : opField cw = BitVec.ofNat 2 k ↔ cw.toNat % 4 = k := by
  rw [opField_eq, ← BitVec.toNat_inj, BitVec.toNat_ofNat, BitVec.toNat_ofNat]
  omega

theorem argField_eq_zero (cw : BitVec 16) : argField cw = 0#8 ↔ cw.toNat / 4 % 256 = 0 := by
  rw [argField_eq, ← BitVec.toNat_inj]
  simp

theorem reservedField_eq_zero (cw : BitVec 16) : reservedField cw = 0#6 ↔ cw.toNat / 1024 = 0 := by
  have := cw.isLt
  rw [← BitVec.toNat_inj]
  simp only [reservedField, BitVec.extractLsb'_toNat, Nat.shiftRight_eq_div_pow, BitVec.toNat_ofNat]
  omega

theorem commandWord_toNat (op : BitVec 2) (arg : Byte) : (commandWord op arg).toNat = arg.toNat * 4 + op.toNat := by
  have h : (commandWord op arg).toNat = (0#6 ++ arg ++ op).toNat := rfl
  rw [h, BitVec.toNat_append, BitVec.toNat_append, ← Nat.shiftLeft_add_eq_or_of_lt op.isLt,
    ← Nat.shiftLeft_add_eq_or_of_lt arg.isLt]
  simp [Nat.shiftLeft_eq]

@[simp] theorem opField_commandWord (op : BitVec 2) (arg : Byte) : opField (commandWord op arg) = op := by
  have := op.isLt
  rw [opField_eq, commandWord_toNat, ← BitVec.toNat_inj, BitVec.toNat_ofNat]
  omega

@[simp] theorem argField_commandWord (op : BitVec 2) (arg : Byte) : argField (commandWord op arg) = arg := by
  have := op.isLt
  have := arg.isLt
  rw [argField_eq, commandWord_toNat, ← BitVec.toNat_inj, BitVec.toNat_ofNat]
  omega

@[simp] theorem reservedField_commandWord (op : BitVec 2) (arg : Byte) : reservedField (commandWord op arg) = 0#6 := by
  have := op.isLt
  have := arg.isLt
  rw [reservedField_eq_zero, commandWord_toNat]
  omega

/-- A word is made of its three fields. -/
theorem commandWord_of_fields {cw : BitVec 16} (h : reservedField cw = 0#6) :
    commandWord (opField cw) (argField cw) = cw := by
  have := cw.isLt
  rw [reservedField_eq_zero] at h
  rw [← BitVec.toNat_inj, commandWord_toNat, opField_eq, argField_eq, BitVec.toNat_ofNat, BitVec.toNat_ofNat]
  omega

/-- Everything the decoder can answer. -/
theorem decode_eq_ok {r : Request} {i : Instr} (h : decode r = .ok i) :
    reservedField r.cw = 0#6 ∧
    ((opField r.cw = 0#2 ∧ i = .byte (argField r.cw) r.time) ∨
      (opField r.cw = 1#2 ∧ argField r.cw = 0#8 ∧ i = .poll r.time) ∨
      (opField r.cw = 2#2 ∧ i = .read (argField r.cw)) ∨
      (opField r.cw = 3#2 ∧ argField r.cw = 0#8 ∧ i = .init r.attached)) := by
  have hop : ∀ x : BitVec 2, x ≠ 0#2 → x ≠ 1#2 → x ≠ 2#2 → x = 3#2 := by decide
  have := hop (opField r.cw)
  unfold decode at h
  split at h
  · cases h
  · rename_i hr
    refine ⟨Classical.not_not.mp hr, ?_⟩
    split at h
    · cases h
      exact .inl ⟨‹_›, rfl⟩
    · split at h
      · split at h
        · cases h
          exact .inr (.inl ⟨‹_›, ‹_›, rfl⟩)
        · cases h
      · split at h
        · cases h
          exact .inr (.inr (.inl ⟨‹_›, rfl⟩))
        · split at h
          · cases h
            exact .inr (.inr (.inr ⟨this ‹_› ‹_› ‹_›, ‹_›, rfl⟩))
          · cases h

/-- What the decoder answers is one of the four operations the environment presents. -/
theorem presented_of_decode {r : Request} {i : Instr} (h : decode r = .ok i) : i.presented = some i := by
  rcases (decode_eq_ok h).2 with ⟨-, rfl⟩ | ⟨-, -, rfl⟩ | ⟨-, rfl⟩ | ⟨-, -, rfl⟩ <;> rfl

end Sys2Proof
end

