-- ==== Sys2Proof/Laws/Memory.lean ====
section
/-! SUPPORT. The laws of the frame buffer: a read after a write, and the canonical form. -/

namespace Sys2Proof.Machine

@[simp] theorem Memory.read_write_same (m : Memory) (a : Nat) (v : Byte) :
    Memory.read (Memory.write m a v) a = some v := by
  induction m with
  | nil => simp [Memory.write, Memory.read]
  | cons p m ih =>
    obtain ⟨k, w⟩ := p
    unfold Memory.write
    split
    · simp [Memory.read]
    · split
      · simp [Memory.read]
      · simp [Memory.read, *]

theorem Memory.read_write_other (m : Memory) {a x : Nat} (v : Byte) (h : x ≠ a) :
    Memory.read (Memory.write m a v) x = Memory.read m x := by
  induction m with
  | nil => simp [Memory.write, Memory.read, h]
  | cons p m ih =>
    obtain ⟨k, w⟩ := p
    unfold Memory.write
    split
    · simp [Memory.read, h]
    · split
      · rename_i hk
        subst hk
        simp [Memory.read, h]
      · simp [Memory.read, ih]

theorem Memory.read_write (m : Memory) (a x : Nat) (v : Byte) :
    Memory.read (Memory.write m a v) x = if x = a then some v else Memory.read m x := by
  by_cases h : x = a
  · simp [h]
  · simp [h, Memory.read_write_other m v h]

/-- A write adds no entry but its own. -/
theorem Memory.mem_write {m : Memory} {a : Nat} {v : Byte} {p : Host.Cell} (h : p ∈ Memory.write m a v) :
    p = (a, v) ∨ p ∈ m := by
  induction m with
  | nil => simpa [Memory.write] using h
  | cons q m ih =>
    obtain ⟨k, w⟩ := q
    unfold Memory.write at h
    split at h
    · simpa using h
    · split at h
      · rcases List.mem_cons.mp h with h | h
        · exact .inl h
        · exact .inr (List.mem_cons_of_mem _ h)
      · rcases List.mem_cons.mp h with h | h
        · exact .inr (h ▸ List.mem_cons_self)
        · rcases ih h with h | h
          · exact .inl h
          · exact .inr (List.mem_cons_of_mem _ h)

/-- A write keeps the canonical form. -/
theorem Memory.write_wf {m : Memory} (h : Memory.wf m) (a : Nat) (v : Byte) : Memory.wf (Memory.write m a v) := by
  induction m with
  | nil => simp [Memory.write, Memory.wf]
  | cons q m ih =>
    obtain ⟨k, w⟩ := q
    obtain ⟨hq, hm⟩ := List.pairwise_cons.mp h
    unfold Memory.write
    split
    · rename_i hk
      refine List.pairwise_cons.mpr ⟨fun p hp => ?_, h⟩
      rcases List.mem_cons.mp hp with rfl | hp
      · exact hk
      · exact Nat.lt_trans hk (hq p hp)
    · split
      · rename_i hk
        subst hk
        exact List.pairwise_cons.mpr ⟨hq, hm⟩
      · refine List.pairwise_cons.mpr ⟨fun p hp => ?_, ih hm⟩
        rcases Memory.mem_write hp with rfl | hp
        · show k < a
          omega
        · exact hq p hp

/-! ## The byte an entry holds -/

theorem byteAt_of_read {s : State} {a : Nat} {v : Byte} (h : s.buf.read a = some v) : byteAt s a = v := by
  simp [byteAt, h]

/-- An entry not written since the latest reset holds a free value. -/
theorem byteAt_of_unwritten {s : State} {a : Nat} (h : s.buf.read a = none) :
    byteAt s a = Config.bufferByte s.bufDraw a := by
  simp [byteAt, h]

/-- What an entry holds depends on the buffer and on the draw only. -/
theorem byteAt_congr {s s' : State} {a : Nat} (hb : s'.buf.read a = s.buf.read a) (hd : s'.bufDraw = s.bufDraw) :
    byteAt s' a = byteAt s a := by
  simp [byteAt, hb, hd]

@[simp] theorem byteAt_stored_same (s : State) (b : Byte) (t : Nat) : byteAt (stored s b t) s.idx = b :=
  byteAt_of_read (by simp)

theorem byteAt_stored_other (s : State) (b : Byte) (t : Nat) {a : Nat} (h : a ≠ s.idx) :
    byteAt (stored s b t) a = byteAt s a :=
  byteAt_congr (by simp [Memory.read_write_other _ _ h]) rfl

@[simp] theorem byteAt_resync (s : State) (a : Nat) : byteAt (resync s) a = byteAt s a := rfl

end Sys2Proof.Machine
end

