-- ==== Sys2Proof/Laws/Ops.lean ====
section
/-! SUPPORT. One lemma for each shared operation that says everything it can do. -/

namespace Sys2Proof.Machine

/-- A sequence of two computations succeeds exactly when both do. -/
theorem bind_eq_ok {α β : Type} {x : Except Fault α} {f : α → Except Fault β} {b : β} :
    (x >>= f) = .ok b ↔ ∃ a, x = .ok a ∧ f a = .ok b := by
  cases x <;> simp [bind, Except.bind]

@[simp] theorem ok_bind {α β : Type} (a : α) (f : α → Except Fault β) : ((Except.ok a : Except Fault α) >>= f) = f a := rfl

@[simp] theorem conclude_eq_next {x : Except Fault State} {s : State} : conclude x = .next s ↔ x = .ok s := by
  cases x <;> simp [conclude]

@[simp] theorem conclude_ne_refused {x : Except Fault State} {r : Refusal} : conclude x ≠ .refused r := by
  cases x <;> simp [conclude]

@[simp] theorem conclude_eq_fault {x : Except Fault State} {f : Fault} : conclude x = .fault f ↔ x = .error f := by
  cases x <;> simp [conclude]

theorem whenBooted_eq_next {s s' : State} {k : Answer} :
    whenBooted s k = .next s' ↔ s.booted = true ∧ k = .next s' := by
  unfold whenBooted
  split <;> simp_all

theorem whenBooted_of_booted {s : State} {k : Answer} (h : s.booted = true) : whenBooted s k = k := if_pos h

theorem whenRow_eq_next {i : Instr} {s s' : State} {k : Answer} :
    whenRow i s k = .next s' ↔ s.booted = true ∧ rowApplies i s = true ∧ k = .next s' := by
  unfold whenRow
  rw [whenBooted_eq_next]
  split <;> simp_all

/-- A row that applies runs its body. -/
theorem whenRow_of_applies {i : Instr} {s : State} {k : Answer} (hb : s.booted = true) (h : rowApplies i s = true) :
    whenRow i s k = k := by
  simp [whenRow, whenBooted, hb, h]

/-- A row that does not apply is refused by name. -/
theorem whenRow_of_not_applies {i : Instr} {s : State} {k : Answer} (hb : s.booted = true)
    (h : rowApplies i s = false) : whenRow i s k = .refused .rowNotSelected := by
  simp [whenRow, whenBooted, hb, h]

theorem memRead_eq_ok {s : State} {a : Nat} {v : Byte} :
    memRead s a = .ok v ↔ a < s.cfg.bufCap ∧ byteAt s a = v := by
  unfold memRead
  split <;> simp_all

theorem memWrite_eq_ok {s s' : State} {a : Nat} {v : Byte} :
    memWrite s a v = .ok s' ↔ a < s.cfg.bufCap ∧ s' = { s with buf := s.buf.write a v } := by
  unfold memWrite
  split <;> simp_all [eq_comm]

/-- A range of bytes reads as `bs` exactly when it lies in the buffer and holds `bs`. -/
theorem readBytes_eq_ok {s : State} {a n : Nat} {bs : List Byte} :
    readBytes s a n = .ok bs ↔ bs.length = n ∧ (0 < n → a + n ≤ s.cfg.bufCap) ∧ HoldsBytes s a bs := by
  induction n generalizing a bs with
  | zero =>
    constructor
    · intro h
      obtain rfl : bs = [] := by simpa [readBytes, eq_comm] using h
      exact ⟨rfl, fun h => absurd h (by simp), fun k hk => absurd hk (by simp)⟩
    · rintro ⟨h, -, -⟩
      simp [readBytes, List.length_eq_zero_iff.mp h]
  | succ n ih =>
    simp only [readBytes, bind_eq_ok, memRead_eq_ok, ih]
    constructor
    · rintro ⟨v, ⟨ha, hv⟩, vs, ⟨hl, hr, hh⟩, h⟩
      obtain rfl : v :: vs = bs := by simpa using h
      refine ⟨by simp [hl], fun _ => ?_, fun k hk => ?_⟩
      · rcases Nat.eq_zero_or_pos n with rfl | hn
        · omega
        · have := hr hn; omega
      · cases k with
        | zero => simpa using hv
        | succ k =>
          have := hh k (by simpa using hk)
          simpa [Nat.add_assoc, Nat.add_comm 1 k] using this
    · rintro ⟨hl, hr, hh⟩
      cases bs with
      | nil => simp at hl
      | cons v vs =>
        have hr := hr (Nat.succ_pos n)
        refine ⟨v, ⟨by omega, by simpa using hh 0 (by simp)⟩, vs, ⟨by simpa using hl, fun _ => by omega, ?_⟩, rfl⟩
        intro k hk
        have := hh (k + 1) (by simpa using hk)
        simpa [Nat.add_assoc, Nat.add_comm 1 k] using this

/-- A byte is accepted exactly when the buffer has room for it. -/
theorem accept_eq_ok {s s' : State} {b : Byte} {t : Nat} :
    accept s b t = .ok s' ↔ s.idx < s.cfg.bufCap ∧ s' = stored s b t := by
  simp only [accept, bind_eq_ok, memWrite_eq_ok]
  constructor
  · rintro ⟨m, ⟨h, rfl⟩, h'⟩
    exact ⟨h, (Except.ok.inj h').symm⟩
  · rintro ⟨h, rfl⟩
    exact ⟨_, ⟨h, rfl⟩, rfl⟩

theorem accept_of_lt {s : State} (b : Byte) (t : Nat) (h : s.idx < s.cfg.bufCap) : accept s b t = .ok (stored s b t) :=
  accept_eq_ok.mpr ⟨h, rfl⟩

theorem accept_of_full {s : State} (b : Byte) (t : Nat) (h : ¬ s.idx < s.cfg.bufCap) :
    accept s b t = .error (.bufferRange s.idx) := by
  simp [accept, memWrite, h, bind, Except.bind]

theorem storedAt_write (s : State) (a : Nat) (b : Byte) {s' : State} (h : s'.buf = s.buf.write a b) :
    StoredAt s s' a b := by
  refine ⟨by rw [h]; exact Memory.read_write_same _ _ _, fun x hx => ?_⟩
  rw [h]
  exact Memory.read_write_other _ _ hx

/-- The `TIME_W`-bit difference of rule R174, as the remainder of the difference of the two numbers. -/
theorem elapsed_eq_emod (c : Config) (now last : Nat) :
    ((elapsed c now last : Nat) : Int) = ((now : Int) - last) % (c.timeSpan : Nat) := by
  unfold elapsed Config.timeSpan
  have hpos : (0 : Int) < ((2 ^ c.timeW : Nat) : Int) := by exact_mod_cast Nat.two_pow_pos c.timeW
  have hlt : last % 2 ^ c.timeW < 2 ^ c.timeW := Nat.mod_lt _ (Nat.two_pow_pos _)
  rw [BitVec.toNat_sub, BitVec.toNat_ofNat, BitVec.toNat_ofNat]
  rw [Int.natCast_emod, Int.natCast_add, Int.ofNat_sub (by omega), Int.natCast_emod, Int.natCast_emod]
  have h1 : ((2 ^ c.timeW : Nat) : Int) - (last : Int) % ((2 ^ c.timeW : Nat) : Int) + (now : Int) % ((2 ^ c.timeW : Nat) : Int)
      = ((now : Int) % ((2 ^ c.timeW : Nat) : Int) - (last : Int) % ((2 ^ c.timeW : Nat) : Int)) + ((2 ^ c.timeW : Nat) : Int) := by ring
  rw [h1, Int.add_emod_right, ← Int.sub_emod]

theorem stale_iff (s : State) (now : Nat) :
    stale s now = true ↔ ((now : Int) - s.lastT) % (2 ^ s.cfg.timeW : Nat) > s.cfg.staleThreshold := by
  have h := elapsed_eq_emod s.cfg now s.lastT
  unfold Config.timeSpan at h
  unfold stale
  rw [decide_eq_true_eq, ← h]
  constructor
  · intro h'; exact_mod_cast h'
  · intro h'; exact_mod_cast h'

theorem not_stale_iff (s : State) (now : Nat) :
    stale s now = false ↔ ((now : Int) - s.lastT) % (2 ^ s.cfg.timeW : Nat) ≤ s.cfg.staleThreshold := by
  rw [← Bool.not_eq_true, stale_iff]
  exact not_lt

end Sys2Proof.Machine
end

