-- ==== Sys2Proof/Laws/Exec.lean ====
section
/-! SUPPORT. What PUBLISH, the completion, BYTE, POLL and READ can do, each said once; and that a case row, where it is not
refused, does what its operation does. -/

namespace Sys2Proof.Machine

/-! ## PUBLISH -/

@[simp] theorem rawValues_length (bs : List Byte) : (rawValues bs).length = bs.length / 2 := by
  induction bs using rawValues.induct with
  | case1 h l rest ih =>
    simp only [rawValues, List.length_cons, ih]
    omega
  | case2 bs h =>
    cases bs with
    | nil => rfl
    | cons a r =>
      cases r with
      | nil => simp [rawValues]
      | cons b r => exact absurd rfl (h a b r)

/-- The frame buffer's payload decodes exactly when the decoded part of it is readable. -/
theorem decodeChannels_eq_ok {s : State} {us : List Word} :
    decodeChannels s = .ok us ↔
      ∃ bytes, readBytes s 3 (2 * channelsDecoded s.cfg s.len) = .ok bytes ∧ us = (rawValues bytes).map microseconds := by
  simp only [decodeChannels, bind_eq_ok, Except.ok.injEq, @eq_comm _ _ us]

theorem decodeChannels_length {s : State} {us : List Word} (h : decodeChannels s = .ok us) :
    us.length = channelsDecoded s.cfg s.len := by
  obtain ⟨bytes, hb, rfl⟩ := decodeChannels_eq_ok.mp h
  have := (readBytes_eq_ok.mp hb).1
  simp [this]

/-- Everything PUBLISH does. -/
theorem publishFrame_eq_ok {s s' : State} :
    publishFrame s = .ok s' ↔ ∃ us status, decodeChannels s = .ok us ∧ memRead s 1 = .ok status ∧
      s' = { s with ch := us ++ s.ch.drop us.length, fs := failsafe status, valid := true,
                    pub := publishedStatus (failsafe status) } := by
  simp only [publishFrame, bind_eq_ok, Except.ok.injEq, @eq_comm _ _ s']
  constructor
  · rintro ⟨us, hu, status, hs, h⟩
    exact ⟨us, status, hu, hs, h⟩
  · rintro ⟨us, status, hu, hs, h⟩
    exact ⟨us, hu, status, hs, h⟩

/-! ## The completion -/

/-- The buffer holds a whole frame of length `s.len`, and these are its body and its two checksum bytes. -/
structure FrameRead (s : State) (body : List Byte) (hi lo : Byte) : Prop where
  hi : memRead s (3 + s.len.toNat) = .ok hi
  lo : memRead s (4 + s.len.toNat) = .ok lo
  body : readBytes s 0 (3 + s.len.toNat) = .ok body

/-- Everything the completion does: it publishes on a match and discards on a mismatch. -/
theorem complete_eq_ok {s s' : State} :
    complete s = .ok s' ↔ ∃ body hi lo, FrameRead s body hi lo ∧
      ((crc16 body = be16 hi lo ∧ ∃ p, publishFrame (resync s) = .ok p ∧
          s' = respond p (.byte .frameOk)) ∨
        (crc16 body ≠ be16 hi lo ∧
          s' = respond (mismatch (resync s)) (.byte .crcMismatch))) := by
  simp only [complete, bind_eq_ok]
  constructor
  · rintro ⟨hi, h1, lo, h2, body, h3, h⟩
    refine ⟨body, hi, lo, ⟨h1, h2, h3⟩, ?_⟩
    split at h
    · obtain ⟨p, hp, h⟩ := bind_eq_ok.mp h
      exact .inl ⟨‹_›, p, hp, (Except.ok.inj h).symm⟩
    · exact .inr ⟨‹_›, (Except.ok.inj h).symm⟩
  · rintro ⟨body, hi, lo, ⟨h1, h2, h3⟩, h⟩
    refine ⟨hi, h1, lo, h2, body, h3, ?_⟩
    rcases h with ⟨hc, p, hp, rfl⟩ | ⟨hc, rfl⟩
    · rw [if_pos hc]
      exact bind_eq_ok.mpr ⟨p, hp, rfl⟩
    · rw [if_neg hc]

/-! ## BYTE -/

/-- Everything BYTE can do, case by case. -/
theorem byteOp_eq_ok {s s' : State} {b : Byte} {t : Nat} (h : byteOp s b t = .ok s') :
    (s.state = .awaitingSync ∧ b ≠ syncByte ∧ s' = respond s (.byte .syncMiss)) ∨
    (s.state = .awaitingSync ∧ b = syncByte ∧
      s' = respond { stored (clearFrame s) b t with state := .readingStatus } (.byte .none)) ∨
    (s.idx < s.cfg.bufCap ∧
      ((s.state = .readingStatus ∧ s' = respond { stored s b t with state := .readingLength } (.byte .none)) ∨
      (s.state = .readingLength ∧ s.cfg.maxPayload < b.toNat ∧
        s' = respond (resync { stored s b t with len := b, lenErr := countOne s.lenErr })
          (.byte .lenOversize)) ∨
      (s.state = .readingLength ∧ ¬ s.cfg.maxPayload < b.toNat ∧ b = 0#8 ∧
        s' = respond { stored s b t with len := b, state := .readingChecksum } (.byte .none)) ∨
      (s.state = .readingLength ∧ ¬ s.cfg.maxPayload < b.toNat ∧ b ≠ 0#8 ∧
        s' = respond { stored s b t with len := b, state := .readingPayload } (.byte .none)) ∨
      (s.state = .readingPayload ∧ s.idx + 1 = 3 + s.len.toNat ∧
        s' = respond { stored s b t with state := .readingChecksum } (.byte .none)) ∨
      (s.state = .readingPayload ∧ s.idx + 1 ≠ 3 + s.len.toNat ∧ s' = respond (stored s b t) (.byte .none)) ∨
      (s.state = .readingChecksum ∧ s.idx ≠ 4 + s.len.toNat ∧ s' = respond (stored s b t) (.byte .none)) ∨
      (s.state = .readingChecksum ∧ s.idx = 4 + s.len.toNat ∧ complete (stored s b t) = .ok s'))) := by
  cases hs : s.state with
  | awaitingSync =>
    simp only [byteOp, hs, byteAwaiting] at h
    split at h
    · exact .inl ⟨rfl, ‹_›, (Except.ok.inj h).symm⟩
    · rename_i hb
      obtain ⟨m, hm, h⟩ := bind_eq_ok.mp h
      obtain ⟨-, rfl⟩ := accept_eq_ok.mp hm
      exact .inr (.inl ⟨rfl, Classical.not_not.mp hb, (Except.ok.inj h).symm⟩)
  | readingStatus =>
    simp only [byteOp, hs] at h
    obtain ⟨m, hm, h⟩ := bind_eq_ok.mp h
    obtain ⟨hlt, rfl⟩ := accept_eq_ok.mp hm
    exact .inr (.inr ⟨hlt, .inl ⟨rfl, (Except.ok.inj h).symm⟩⟩)
  | readingLength =>
    simp only [byteOp, hs] at h
    obtain ⟨m, hm, h⟩ := bind_eq_ok.mp h
    obtain ⟨hlt, rfl⟩ := accept_eq_ok.mp hm
    obtain rfl := (Except.ok.inj h)
    refine .inr (.inr ⟨hlt, .inr ?_⟩)
    by_cases h1 : s.cfg.maxPayload < b.toNat
    · exact .inl ⟨rfl, h1, by simp [byteLength, h1]⟩
    · by_cases h2 : b = 0#8
      · exact .inr (.inl ⟨rfl, h1, h2, by simp [byteLength, h2]⟩)
      · exact .inr (.inr (.inl ⟨rfl, h1, h2, by simp [byteLength, h1, h2]⟩))
  | readingPayload =>
    simp only [byteOp, hs] at h
    obtain ⟨m, hm, h⟩ := bind_eq_ok.mp h
    obtain ⟨hlt, rfl⟩ := accept_eq_ok.mp hm
    obtain rfl := (Except.ok.inj h)
    refine .inr (.inr ⟨hlt, .inr (.inr (.inr (.inr ?_)))⟩)
    by_cases h1 : s.idx + 1 = 3 + s.len.toNat
    · exact .inl ⟨rfl, h1, by simp [bytePayload, h1]⟩
    · exact .inr (.inl ⟨rfl, h1, by simp [bytePayload, h1]⟩)
  | readingChecksum =>
    simp only [byteOp, hs] at h
    obtain ⟨m, hm, h⟩ := bind_eq_ok.mp h
    obtain ⟨hlt, rfl⟩ := accept_eq_ok.mp hm
    refine .inr (.inr ⟨hlt, .inr (.inr (.inr (.inr (.inr (.inr ?_)))))⟩)
    split at h
    · rename_i h1
      simp only [stored_idx, stored_len] at h1
      exact .inr ⟨rfl, by omega, h⟩
    · rename_i h1
      simp only [stored_idx, stored_len] at h1
      exact .inl ⟨rfl, by omega, (Except.ok.inj h).symm⟩

/-! What BYTE does in each decoder state. -/

theorem byteOp_drop {s : State} {b : Byte} {t : Nat} (hs : s.state = .awaitingSync) (hb : b ≠ syncByte) :
    byteOp s b t = .ok (respond s (.byte .syncMiss)) := by
  simp [byteOp, hs, byteAwaiting, hb]

theorem byteOp_sync {s : State} {t : Nat} (hs : s.state = .awaitingSync) :
    byteOp s syncByte t =
      .ok (respond { stored (clearFrame s) syncByte t with state := .readingStatus } (.byte .none)) := by
  simp [byteOp, hs, byteAwaiting, accept_of_lt (s := clearFrame s) syncByte t (by simp [Config.bufCap])]

theorem byteOp_status {s : State} {b : Byte} {t : Nat} (hs : s.state = .readingStatus) (hlt : s.idx < s.cfg.bufCap) :
    byteOp s b t = .ok (respond { stored s b t with state := .readingLength } (.byte .none)) := by
  simp [byteOp, hs, accept_of_lt b t hlt]

theorem byteOp_length {s : State} {b : Byte} {t : Nat} (hs : s.state = .readingLength) (hlt : s.idx < s.cfg.bufCap) :
    byteOp s b t = .ok (byteLength (stored s b t) b) := by
  simp [byteOp, hs, accept_of_lt b t hlt]

theorem byteOp_payload {s : State} {b : Byte} {t : Nat} (hs : s.state = .readingPayload)
    (hlt : s.idx < s.cfg.bufCap) : byteOp s b t = .ok (bytePayload (stored s b t)) := by
  simp [byteOp, hs, accept_of_lt b t hlt]

theorem byteOp_checksumHigh {s : State} {b : Byte} {t : Nat} (hs : s.state = .readingChecksum)
    (hi : s.idx ≠ 4 + s.len.toNat) (hlt : s.idx < s.cfg.bufCap) :
    byteOp s b t = .ok (respond (stored s b t) (.byte .none)) := by
  have h : ¬ (stored s b t).idx = 5 + (stored s b t).len.toNat := by
    simp only [stored_idx, stored_len]
    omega
  simp only [byteOp, hs, accept_of_lt b t hlt, ok_bind, if_neg h]

theorem byteOp_checksumLow {s : State} {b : Byte} {t : Nat} (hs : s.state = .readingChecksum)
    (hi : s.idx = 4 + s.len.toNat) (hlt : s.idx < s.cfg.bufCap) : byteOp s b t = complete (stored s b t) := by
  have h : (stored s b t).idx = 5 + (stored s b t).len.toNat := by
    simp only [stored_idx, stored_len]
    omega
  simp only [byteOp, hs, accept_of_lt b t hlt, ok_bind, if_pos h]

/-- Where the buffer is full, no byte is accepted (no state between operations is like that). -/
theorem byteOp_full {s : State} {b : Byte} {t : Nat} (hs : s.state ≠ .awaitingSync) (hlt : ¬ s.idx < s.cfg.bufCap) :
    byteOp s b t = .error (.bufferRange s.idx) := by
  cases h : s.state <;> simp_all [byteOp, accept_of_full, bind, Except.bind]

theorem exec_byte_eq_next {s s' : State} {b : Byte} {t : Nat} :
    exec (.byte b t) s = .next s' ↔ s.booted = true ∧ byteOp s b t = .ok s' := by
  simp [exec, execByte, whenBooted_eq_next]

/-! ## POLL -/

/-- Everything POLL can do. -/
theorem pollOp_cases (s : State) (now : Nat) :
    (s.pub ≠ .nothingNew ∧ pollOp s now = reportStatus s) ∨
    (s.pub = .nothingNew ∧ s.state ≠ .awaitingSync ∧ stale s now = true ∧ pollOp s now = abortFrame s) ∨
    (s.pub = .nothingNew ∧ (s.state = .awaitingSync ∨ stale s now = false) ∧ pollOp s now = reportNothing s) := by
  by_cases hp : s.pub = .nothingNew
  · by_cases hs : s.state = .awaitingSync
    · exact .inr (.inr ⟨hp, .inl hs, by simp [pollOp, hp, hs]⟩)
    · cases hst : stale s now
      · exact .inr (.inr ⟨hp, .inr rfl, by simp [pollOp, hp, hst]⟩)
      · exact .inr (.inl ⟨hp, hs, rfl, by simp [pollOp, hp, hs, hst]⟩)
  · exact .inl ⟨hp, by simp [pollOp, hp]⟩

theorem exec_poll_eq_next {s s' : State} {now : Nat} :
    exec (.poll now) s = .next s' ↔ s.booted = true ∧ s' = pollOp s now := by
  simp only [exec, execPoll, whenBooted_eq_next, Host.Outcome.next.injEq, @eq_comm _ _ s']

/-! ## READ -/

theorem readChannel_eq_ok {s s' : State} {i : Byte} :
    readChannel s i = .ok s' ↔ ∃ v, s.ch[i.toNat]? = some v ∧ s' = respond s (.read false v .none) := by
  unfold readChannel
  split <;> simp_all [@eq_comm _ _ s']

/-- Everything READ can do. -/
theorem exec_read_eq_next {s s' : State} {i : Byte} :
    exec (.read i) s = .next s' ↔ s.booted = true ∧
      ((s.cfg.maxChannels ≤ i.toNat ∧ s' = readReject s) ∨
        (i.toNat < s.cfg.maxChannels ∧ ∃ v, s.ch[i.toNat]? = some v ∧ s' = respond s (.read false v .none))) := by
  simp only [exec, execRead, whenBooted_eq_next, conclude_eq_next, readOp]
  refine and_congr_right fun _ => ?_
  by_cases h : s.cfg.maxChannels ≤ i.toNat
  · have h' : ¬ i.toNat < s.cfg.maxChannels := by omega
    simp [h, h', @eq_comm _ _ s']
  · have h' : i.toNat < s.cfg.maxChannels := by omega
    simp [h, h', readChannel_eq_ok]

/-! ## The other operations -/

theorem exec_init_eq_next {s s' : State} {attached : Bool} :
    exec (.init attached) s = .next s' ↔ s' = respond (applyReset s) (.init attached .none) := by
  simp [exec, execInit, eq_comm]

theorem exec_crc16Step_eq_next {s s' : State} {acc : Word} {b : Byte} :
    exec (.crc16Step acc b) s = .next s' ↔ s' = respond s (.crc (crc16Step acc b)) := by
  simp [exec, execCrc16Step, eq_comm]

theorem exec_publish_eq_next {s s' : State} :
    exec .publish s = .next s' ↔ s.booted = true ∧ publishFrame s = .ok s' := by
  simp [exec, execPublish, whenBooted_eq_next]

end Sys2Proof.Machine
end

