-- ==== Sys2Proof/Laws/PerInstr.lean ====
section
/-! SUPPORT. One lemma for each row of the opcode table: the operation whose command word the row is has that word itself, is
no case of another, and is well-formed where the row is (`30_encoding.md` rules R73 and R76). -/

namespace Sys2Proof.Laws.Presented

def Statement (i : Instr) : Prop :=
  ∀ (c : Config) (w : Instr), i.wf c = true → i.presented = some w →
    w.wf c = true ∧ w.presented = some w ∧ w.isCase = false

theorem byte (b : Byte) (t : Nat) : Statement (.byte b t) := by
  rintro c w h ⟨⟩
  exact ⟨h, rfl, rfl⟩

theorem byteSync (t : Nat) : Statement (.byteSync t) := by
  rintro c w h ⟨⟩
  exact ⟨h, rfl, rfl⟩

theorem byteDrop (b : Byte) (t : Nat) : Statement (.byteDrop b t) := by
  rintro c w h ⟨⟩
  exact ⟨(Bool.and_eq_true_iff.mp h).2, rfl, rfl⟩

theorem byteStatus (b : Byte) (t : Nat) : Statement (.byteStatus b t) := by
  rintro c w h ⟨⟩
  exact ⟨h, rfl, rfl⟩

theorem byteLenBad (b : Byte) (t : Nat) : Statement (.byteLenBad b t) := by
  rintro c w h ⟨⟩
  exact ⟨(Bool.and_eq_true_iff.mp h).2, rfl, rfl⟩

theorem byteLen (b : Byte) (t : Nat) : Statement (.byteLen b t) := by
  rintro c w h ⟨⟩
  exact ⟨(Bool.and_eq_true_iff.mp h).2, rfl, rfl⟩

theorem byteLen0 (t : Nat) : Statement (.byteLen0 t) := by
  rintro c w h ⟨⟩
  exact ⟨h, rfl, rfl⟩

theorem bytePay (b : Byte) (t : Nat) : Statement (.bytePay b t) := by
  rintro c w h ⟨⟩
  exact ⟨h, rfl, rfl⟩

theorem byteCkHi (b : Byte) (t : Nat) : Statement (.byteCkHi b t) := by
  rintro c w h ⟨⟩
  exact ⟨h, rfl, rfl⟩

theorem byteCkLo (b : Byte) (t : Nat) : Statement (.byteCkLo b t) := by
  rintro c w h ⟨⟩
  exact ⟨h, rfl, rfl⟩

theorem poll (now : Nat) : Statement (.poll now) := by
  rintro c w h ⟨⟩
  exact ⟨h, rfl, rfl⟩

theorem pollReport (now : Nat) : Statement (.pollReport now) := by
  rintro c w h ⟨⟩
  exact ⟨h, rfl, rfl⟩

theorem pollStale (now : Nat) : Statement (.pollStale now) := by
  rintro c w h ⟨⟩
  exact ⟨h, rfl, rfl⟩

theorem pollIdle (now : Nat) : Statement (.pollIdle now) := by
  rintro c w h ⟨⟩
  exact ⟨h, rfl, rfl⟩

theorem read (i : Byte) : Statement (.read i) := by
  rintro c w - ⟨⟩
  exact ⟨rfl, rfl, rfl⟩

theorem readOk (i : Byte) : Statement (.readOk i) := by
  rintro c w - ⟨⟩
  exact ⟨rfl, rfl, rfl⟩

theorem readBad (i : Byte) : Statement (.readBad i) := by
  rintro c w - ⟨⟩
  exact ⟨rfl, rfl, rfl⟩

theorem init (attached : Bool) : Statement (.init attached) := by
  rintro c w - ⟨⟩
  exact ⟨rfl, rfl, rfl⟩

theorem crc16Step (acc : Word) (b : Byte) : Statement (.crc16Step acc b) := by
  rintro c w - ⟨⟩

theorem publish : Statement .publish := by
  rintro c w - ⟨⟩

end Sys2Proof.Laws.Presented
end

