-- ==== Sys2Proof/Laws/Run.lean ====
section
/-! SUPPORT. Sequences of operations: running one after another, and the operations of a sequence of bytes. -/

namespace Sys2Proof.Machine

/-- A first operation that completes is followed by the rest. -/
theorem runOps_cons_of_next {i : Instr} {is : List Instr} {s m : State} (h : exec i s = .next m) :
    runOps (i :: is) s = runOps is m := by
  simp [runOps, h]

/-- A sequence that completes is followed by the next one. -/
theorem runOps_append_of_next {xs ys : List Instr} {s m : State} (h : runOps xs s = .next m) :
    runOps (xs ++ ys) s = runOps ys m := by
  induction xs generalizing s with
  | nil =>
    obtain rfl : s = m := by simpa [runOps] using h
    rfl
  | cons i is ih =>
    simp only [runOps, List.cons_append] at h ⊢
    cases he : exec i s with
    | next m => exact ih (by simpa [he] using h)
    | fault f => simp [he] at h
    | refused r => simp [he] at h

theorem bytesAt_append {xs ys : List Byte} {us vs : List Nat} (h : xs.length = us.length) :
    bytesAt (xs ++ ys) (us ++ vs) = bytesAt xs us ++ bytesAt ys vs := by
  simp [bytesAt, List.zipWith_append h]

theorem frameBody_length (status : Byte) (payload : List Byte) :
    (frameBody status payload).length = 3 + payload.length := by
  simp only [frameBody, List.length_cons]
  omega

end Sys2Proof.Machine
end

