-- ==== Sys2Proof/Laws/Step.lean ====
section
/-! SUPPORT. What one step can do, said once. -/

namespace Sys2Proof.Machine

/-- The state from which the next event is taken. -/
def taken (s : State) : State := { s with env := (nextEvent s.env).2 }

/-- A step that answers a next state passed a turn, reset, or executed the operation that was presented. -/
theorem step_eq_next {s s' : State} :
    step s = .next s' ↔
      ((nextEvent s.env).1 = .idle ∧ s' = taken s) ∨
      ((nextEvent s.env).1 = .hardwareReset ∧ s' = applyReset (taken s)) ∨
      ∃ r i, (nextEvent s.env).1 = .request r ∧ decode r = .ok i ∧ exec i (taken s) = .next s' := by
  unfold step
  split
  · rename_i h
    simp [h, taken, eq_comm]
  · rename_i h
    simp [h, taken, eq_comm]
  · rename_i r h
    split
    · rename_i i hd
      simp [h, hd, taken]
    · rename_i why hd
      simp [h, hd]

/-- A step is refused for a word of R78, or because the operation is. -/
theorem step_eq_refused {s : State} {why : Refusal} :
    step s = .refused why ↔
      ∃ r, (nextEvent s.env).1 = .request r ∧
        ((∃ e, decode r = .error e ∧ why = .reservedWord e) ∨
          ∃ i, decode r = .ok i ∧ exec i (taken s) = .refused why) := by
  unfold step
  split
  · rename_i h
    simp [h]
  · rename_i h
    simp [h]
  · rename_i r h
    split
    · rename_i i hd
      simp [h, hd, taken]
    · rename_i e hd
      simp [h, hd, eq_comm]

end Sys2Proof.Machine
end

