-- ==== Sys2Proof/Tests/Slice0.lean ====
section
/-! SUPPORT. Tests, each of one step. The expected values are those of `spec/95_test_vectors.md` or of the examples of the
rules, named in each docstring. Then, for each statement of `Certificates/Slice0` that has hypotheses, a witness that meets
them, clause by clause where it has clauses. -/

namespace Sys2Proof.Tests

open Sys2Proof.Machine

/-! ## Helpers -/

/-- The bytes `bs` at the addresses from 0 on. -/
def bufOf (bs : List Byte) : Memory := (List.range bs.length).zip bs

/-- TC inside a frame of which `bs` has arrived, the last byte at time `t`. -/
def inFrame (d : DecoderState) (bs : List Byte) (t : Nat) : State :=
  { State.reset with state := d, buf := bufOf bs, idx := bs.length, len := bs.getD 2 0#8, lastT := t }

/-- What `f` says of the next state. -/
def after {α : Type} (a : Answer) (f : State → α) : Option α :=
  match a with
  | .next s => some (f s)
  | .fault _ => none
  | .refused _ => none

/-- The next state. -/
def next (a : Answer) : Option State := after a id

/-- Why the operation is refused. -/
def refusal (a : Answer) : Option Refusal :=
  match a with
  | .next _ => none
  | .fault _ => none
  | .refused r => some r

/-- TC with the given events and requests still to come. -/
def waiting (turns : List Turn) (p c i : List Request) : State :=
  { State.reset with env := { producer := p, consumer := c, initializer := i, turns := turns } }

/-- A request without `src_attached`. -/
def req (cw : BitVec 16) (t : Nat) : Request := { cw := cw, time := t, attached := false }

/-- The one-channel frame of R128's example but for its last byte. -/
def sixBytes : State := inFrame .readingChecksum [0xA8#8, 0x01#8, 0x02#8, 0x2E#8, 0xE0#8, 0xE8#8] 0

/-- After the one-channel frame of R128's example, not yet polled. -/
def published : State :=
  { inFrame .awaitingSync [0xA8#8, 0x01#8, 0x02#8, 0x2E#8, 0xE0#8, 0xE8#8, 0x5A#8] 0 with
    ch := 1500#16 :: List.replicate 15 0#16, valid := true, pub := .complete }

/-! ## Decoding (30_encoding.md R73, R76, R78; the words are written from R73: op in bits 1:0, arg in bits 9:2) -/

theorem test_words_byte :
    decodeTableWord 16 0b0000000000000100 = some (.byte 0x01#8 0) ∧
    decodeTableWord 48 0x000A_02A0 = some (.byte 0xA8#8 10) := by decide
theorem test_words_byte_rows :
    decodeTableWord 16 0b0000001010100000 = (Instr.byteSync 0).presented ∧
    decodeTableWord 16 0b0000000101010100 = (Instr.byteDrop 0x55#8 0).presented ∧
    decodeTableWord 16 0b0000001000000100 = (Instr.byteStatus 0x81#8 0).presented ∧
    decodeTableWord 16 0b0000000010000100 = (Instr.byteLenBad 0x21#8 0).presented ∧
    decodeTableWord 16 0b0000000000101000 = (Instr.byteLen 0x0A#8 0).presented ∧
    decodeTableWord 16 0b0000000000000000 = (Instr.byteLen0 0).presented ∧
    decodeTableWord 16 0b0000000010111000 = (Instr.bytePay 0x2E#8 0).presented ∧
    decodeTableWord 16 0b0000001110100000 = (Instr.byteCkHi 0xE8#8 0).presented ∧
    decodeTableWord 16 0b0000000101101000 = (Instr.byteCkLo 0x5A#8 0).presented := by decide
theorem test_words_poll :
    decodeTableWord 16 0b0000000000000001 = some (.poll 0) ∧
    decodeTableWord 16 1 = (Instr.pollReport 0).presented ∧ decodeTableWord 16 1 = (Instr.pollStale 0).presented ∧
    decodeTableWord 16 1 = (Instr.pollIdle 0).presented := by decide
theorem test_words_read :
    decodeTableWord 16 0b0000000000001110 = some (.read 3#8) ∧
    decodeTableWord 16 0b0000000000111110 = (Instr.readOk 15#8).presented ∧
    decodeTableWord 16 0b0000000001000010 = (Instr.readBad 16#8).presented := by decide
theorem test_words_init : decodeTableWord 16 0b0000000000000011 = some (.init false) := by decide
theorem test_words_refused :
    decodeTableWord 16 0b0000010000000000 = none ∧ decodeTableWord 16 0b1000000000000010 = none ∧
    decodeTableWord 16 0b0000000000000101 = none ∧ decodeTableWord 16 0b0000000000000111 = none := by decide
theorem test_encode :
    encode (.byte 0xFF#8 2) = some (req 0x03FC#16 2) ∧ encode (.read 16#8) = some (req 0x0042#16 0) ∧
    encode (.crc16Step 0#16 0#8) = none ∧ encode .publish = none := by decide

/-! ## WellFormed: an ill-formed term for each check, which the check refuses -/

theorem test_wf_time :
    (Instr.byte 0#8 (2 ^ 32)).wf .tc = false ∧ (Instr.byteSync (2 ^ 32)).wf .tc = false ∧
    (Instr.byteDrop 0#8 (2 ^ 32)).wf .tc = false ∧ (Instr.byteStatus 0#8 (2 ^ 32)).wf .tc = false ∧
    (Instr.byteLenBad 33#8 (2 ^ 32)).wf .tc = false ∧ (Instr.byteLen 32#8 (2 ^ 32)).wf .tc = false ∧
    (Instr.byteLen0 (2 ^ 32)).wf .tc = false ∧ (Instr.bytePay 0#8 (2 ^ 32)).wf .tc = false ∧
    (Instr.byteCkHi 0#8 (2 ^ 32)).wf .tc = false ∧ (Instr.byteCkLo 0#8 (2 ^ 32)).wf .tc = false ∧
    (Instr.poll (2 ^ 32)).wf .tc = false ∧ (Instr.pollReport (2 ^ 32)).wf .tc = false ∧
    (Instr.pollStale (2 ^ 32)).wf .tc = false ∧ (Instr.pollIdle (2 ^ 32)).wf .tc = false := by decide
theorem test_wf_operand :
    (Instr.byteDrop 0xA8#8 0).wf .tc = false ∧ (Instr.byteLenBad 32#8 0).wf .tc = false ∧
    (Instr.byteLen 0#8 0).wf .tc = false ∧ (Instr.byteLen 33#8 0).wf .tc = false ∧
    (Instr.readOk 16#8).wf .tc = false ∧ (Instr.readBad 15#8).wf .tc = false := by decide
theorem test_wf_accepts :
    (Instr.byte 0#8 (2 ^ 32 - 1)).wf .tc = true ∧ (Instr.byteDrop 0xA9#8 0).wf .tc = true ∧
    (Instr.byteLenBad 33#8 0).wf .tc = true ∧ (Instr.byteLen 1#8 0).wf .tc = true ∧
    (Instr.byteLen 32#8 0).wf .tc = true ∧ (Instr.readOk 15#8).wf .tc = true ∧
    (Instr.readBad 16#8).wf .tc = true := by decide

/-! ## The checksum unit -/

/-- CS2 and CS6. -/
theorem test_crc16Step :
    next (exec (.crc16Step 0#16 0xA8#8) .reset) = some { State.reset with out := .crc 0x34E2#16 } ∧
    next (exec (.crc16Step 0xFFFF#16 0#8) .reset) = some { State.reset with out := .crc 0xE1F0#16 } := by decide +kernel
/-- CS13. -/
theorem test_crc16_check : crc16 [0x31#8, 0x32#8, 0x33#8, 0x34#8, 0x35#8, 0x36#8, 0x37#8, 0x38#8, 0x39#8] = 0x31C3#16 := by
  decide +kernel
/-- CS16: the frame of R128's example. -/
theorem test_wireFrame :
    wireFrame 0x01#8 (framePayload [0x2EE0#16]) =
      [0xA8#8, 0x01#8, 0x02#8, 0x2E#8, 0xE0#8, 0xE8#8, 0x5A#8] := by decide +kernel

/-! ## BYTE and its cases -/

/-- FA2's first byte, then its second: R130 as a whole. -/
theorem test_byte :
    next (exec (.byte 0x00#8 7) .reset) = some { State.reset with out := .byte .syncMiss } ∧
    after (exec (.byte 0xA8#8 7) .reset) (fun s => (s.state, s.idx, s.lastT, s.buf)) =
      some (.readingStatus, 1, 7, [(0, 0xA8#8)]) := by decide
/-- R120's example. -/
theorem test_byteSync :
    after (exec (.byteSync 5) .reset) (fun s => (s.state, s.idx, s.lastT, s.buf)) =
      some (.readingStatus, 1, 5, [(0, 0xA8#8)]) := by decide
/-- FA1: `last_t` stays 0. -/
theorem test_byteDrop : next (exec (.byteDrop 0xFF#8 3) .reset) = some { State.reset with out := .byte .syncMiss } := by decide
/-- R122's example. -/
theorem test_byteStatus :
    after (exec (.byteStatus 0x81#8 6) (inFrame .readingStatus [0xA8#8] 5)) (fun s => (s.state, s.idx, s.buf.read 1)) =
      some (.readingLength, 2, some 0x81#8) := by decide
/-- FA3: 33 exceeds `MAX_PAYLOAD = 32`. -/
theorem test_byteLenBad :
    after (exec (.byteLenBad 0x21#8 0) (inFrame .readingLength [0xA8#8, 0x01#8] 0))
      (fun s => (s.state, s.lenErr, s.out)) = some (.awaitingSync, 1#32, .byte .lenOversize) := by decide
/-- D18: the counter wraps. -/
theorem test_lenErr_wraps :
    after (exec (.byte 0xFF#8 0) { inFrame .readingLength [0xA8#8, 0x01#8] 0 with lenErr := 0xFFFFFFFF#32 })
      (fun s => s.lenErr) = some 0#32 := by decide
/-- FA4: 32 is accepted. -/
theorem test_byteLen :
    after (exec (.byteLen 0x20#8 0) (inFrame .readingLength [0xA8#8, 0x01#8] 0)) (fun s => (s.state, s.len, s.idx)) =
      some (.readingPayload, 32#8, 3) := by decide
/-- R125's example. -/
theorem test_byteLen0 :
    after (exec (.byteLen0 0) (inFrame .readingLength [0xA8#8, 0x01#8] 0)) (fun s => (s.state, s.len, s.idx)) =
      some (.readingChecksum, 0#8, 3) := by decide
/-- R126's example, the first payload byte and the last. -/
theorem test_bytePay :
    after (exec (.bytePay 0x2E#8 1) (inFrame .readingPayload [0xA8#8, 0x01#8, 0x02#8] 0)) (fun s => (s.state, s.idx)) =
      some (.readingPayload, 4) ∧
    after (exec (.bytePay 0xE0#8 1) (inFrame .readingPayload [0xA8#8, 0x01#8, 0x02#8, 0x2E#8] 0))
      (fun s => (s.state, s.idx)) = some (.readingChecksum, 5) := by decide
/-- R127's example. -/
theorem test_byteCkHi :
    after (exec (.byteCkHi 0xE8#8 1) (inFrame .readingChecksum [0xA8#8, 0x01#8, 0x02#8, 0x2E#8, 0xE0#8] 0))
      (fun s => (s.state, s.idx)) = some (.readingChecksum, 6) := by decide
/-- R128's example (FA11): a match publishes. -/
theorem test_byteCkLo_match :
    after (exec (.byteCkLo 0x5A#8 0) sixBytes) (fun s => (s.state, s.idx, s.ch.take 2, s.pub, s.out)) =
      some (.awaitingSync, 7, [1500#16, 0#16], .complete, .byte .frameOk) := by decide +kernel
/-- WD11: a mismatch leaves the pending report and the values. -/
theorem test_byteCkLo_mismatch :
    after (exec (.byteCkLo 0xD8#8 1)
        { inFrame .readingChecksum [0xA8#8, 0x81#8, 0x02#8, 0x1C#8, 0x20#8, 0x8F#8] 1 with
          ch := 1500#16 :: List.replicate 15 0#16, valid := true, pub := .complete })
      (fun s => (s.crcErr, s.pub, s.fs, s.ch[0]?, s.out)) =
      some (1#32, .complete, false, some 1500#16, .byte .crcMismatch) := by decide +kernel
/-- FA8: a sync-valued byte in the frame is data. -/
theorem test_byte_sync_in_frame :
    after (exec (.byte 0xA8#8 0) (inFrame .readingChecksum [0xA8#8, 0x01#8, 0x02#8, 0xA8#8, 0xA8#8, 0x90#8] 0))
      (fun s => (s.state, s.ch[0]?)) = some (.awaitingSync, some 5397#16) := by decide +kernel
/-- R76: a case whose condition does not hold is no case of the operation. -/
theorem test_case_not_selected :
    refusal (exec (.byteStatus 0#8 0) .reset) = some .rowNotSelected ∧
    refusal (exec (.readOk 16#8) .reset) = some .rowNotSelected := by decide

/-! ## PUBLISH -/

/-- CD10 (an odd length) with R154's status 0x81. -/
theorem test_publish :
    after (exec .publish (inFrame .readingChecksum [0xA8#8, 0x81#8, 0x03#8, 0x2E#8, 0xE0#8, 0x55#8] 0))
      (fun s => (s.ch.take 2, s.fs, s.valid, s.pub)) =
      some ([1500#16, 0#16], true, true, .completeWithFailsafe) := by decide
/-- CD9: a short frame keeps the other channels. -/
theorem test_publish_short :
    after (exec .publish
        { inFrame .readingChecksum [0xA8#8, 0x01#8, 0x02#8, 0x3B#8, 0x60#8] 10 with
          ch := 900#16 :: 1100#16 :: 1500#16 :: List.replicate 13 0#16 })
      (fun s => s.ch.take 4) = some [1900#16, 1100#16, 1500#16, 0#16] := by decide

/-- R52 and `93_implementation_defined.md` I3: an entry not written since reset reads as a free value, up to the last
one, and PUBLISH on it completes with the channel values, here none, and the failsafe bit of the free value. -/
theorem test_unwritten_entry :
    memRead .reset 36 = .ok (Config.bufferByte 0 36) ∧
    after (exec .publish .reset) (fun s => (s.fs, s.valid, s.ch[0]?)) =
      some (failsafe (Config.bufferByte 0 1), true, some 0#16) := ⟨rfl, rfl⟩

/-- FC4, and FC3: bit 7 of the status decides (log entry 21). -/
theorem test_failsafe : failsafe 0xA8#8 = true ∧ failsafe 0x7F#8 = false := by decide

/-! ## POLL and its cases -/

/-- WD5 and WD4: 31 and 26 time units across the wrap. -/
theorem test_poll :
    after (exec (.poll 25) (inFrame .readingLength [0xA8#8, 0x01#8] 4294967290)) (fun s => (s.state, s.out)) =
      some (.awaitingSync, .poll .nothingNew .staleAbort) ∧
    after (exec (.poll 20) (inFrame .readingLength [0xA8#8, 0x01#8] 4294967290)) (fun s => (s.state, s.out)) =
      some (.readingLength, .poll .nothingNew .none) := by decide
/-- R171's example. -/
theorem test_pollReport :
    next (exec (.pollReport 2) published) = some { published with pub := .nothingNew, out := .poll .complete .none } := by decide
/-- WD2, WD6. -/
theorem test_pollStale :
    after (exec (.pollStale 131) (inFrame .readingLength [0xA8#8, 0x01#8] 100)) (fun s => (s.state, s.idx)) =
      some (.awaitingSync, 2) ∧
    after (exec (.pollStale 99) (inFrame .readingLength [0xA8#8, 0x01#8] 100)) (fun s => s.state) =
      some .awaitingSync := by decide
/-- WD1: 30 is not over the threshold. WD3: nothing to abort. -/
theorem test_pollIdle :
    after (exec (.pollIdle 130) (inFrame .readingLength [0xA8#8, 0x01#8] 100)) (fun s => (s.state, s.out)) =
      some (.readingLength, .poll .nothingNew .none) ∧
    next (exec (.pollIdle 999999) .reset) = some { State.reset with out := .poll .nothingNew .none } := by decide

/-! ## READ, INIT, reset -/

/-- RD1, and R177's example. -/
theorem test_read :
    after (exec (.read 255#8) .reset) (fun s => s.out) = some (.read true 0#16 .indexRange) ∧
    next (exec (.read 0#8) published) = some { published with out := .read false 1500#16 .none } := by decide
/-- RD1: the last entry, and RD2 under TC4. -/
theorem test_readOk :
    after (exec (.readOk 15#8) .reset) (fun s => s.out) = some (.read false 0#16 .none) ∧
    refusal (exec (.readOk 4#8) (State.resetFor .tc4)) = some .rowNotSelected := by decide
/-- RD1, RD2. -/
theorem test_readBad :
    after (exec (.readBad 16#8) .reset) (fun s => s.out) = some (.read true 0#16 .indexRange) ∧
    after (exec (.readBad 4#8) (State.resetFor .tc4)) (fun s => s.out) = some (.read true 0#16 .indexRange) := by decide
/-- IN1: the report and the values are gone, and a failed attach is returned, not raised. The buffer's contents are drawn
anew (log entry 5). -/
theorem test_init :
    next (exec (.init true) published) = some { State.reset with bufDraw := 1, out := .init true .none } ∧
    next (exec (.init false) { published with booted := false }) =
      some { State.reset with bufDraw := 1, out := .init false .none } := by decide
/-- R231. -/
theorem test_before_reset : refusal (exec (.poll 0) { State.reset with booted := false }) = some .beforeFirstReset := by decide

/-! ## Step -/

/-- `withFetchWord` presents exactly the word's operation. -/
theorem test_step_word :
    next (step (State.reset.withFetchWord 16 0x02A0)) = next (exec (.byte 0xA8#8 0) .reset) ∧
    next (step (State.reset.withFetchWord 48 0x0005_0001)) = next (exec (.poll 5) .reset) ∧
    next (step (State.reset.withFetchWord 16 0x0042)) = next (exec (.read 16#8) .reset) ∧
    next (step (State.reset.withFetchWord 16 0x0003)) = next (exec (.init false) .reset) := by decide
/-- R78. -/
theorem test_step_refused :
    refusal (step (State.reset.withFetchWord 16 0x0400)) = some (.reservedWord .reservedBits) ∧
    refusal (step (State.reset.withFetchWord 16 0x0007)) = some (.reservedWord .argNotZero) := by decide
/-- With nothing presented nothing changes, and a hardware reset resets (R230). -/
theorem test_step_idle_and_reset :
    next (step .reset) = some .reset ∧
    next (step { published with env := { State.reset.env with turns := [.hardwareReset] } }) =
      some { State.reset with bufDraw := 1 } := by decide

/-! ## Witnesses: for each statement with hypotheses, a state and operands that meet them -/

/-- A frame of 32 payload bytes declared, one of them still to come. -/
def lastPayloadByte : State := inFrame .readingPayload ([0xA8#8, 0x01#8, 0x20#8] ++ List.replicate 31 0x55#8) 0

/-- A partial frame whose last byte came at time 100. -/
def partialFrame : State := inFrame .readingLength [0xA8#8, 0x01#8] 100

/-- A frame one payload byte of which has come. -/
def midPayload : State := inFrame .readingPayload [0xA8#8, 0x01#8, 0x0A#8, 0x1C#8] 100

theorem published_inv : published.Inv := by constructor <;> decide
theorem published_snapInv : published.SnapInv :=
  ⟨by decide, by decide, by simp [published, inFrame, State.reset, State.resetFor, Config.tc]⟩
theorem midPayload_inv : midPayload.Inv := by constructor <;> decide
theorem midPayload_snapInv : midPayload.SnapInv := by
  refine ⟨by decide, ?_, ?_⟩ <;> simp [midPayload, inFrame, State.reset, State.resetFor, Config.tc]
theorem sixBytes_inv : sixBytes.Inv := by constructor <;> decide
theorem reset_inv : State.reset.Inv := by constructor <;> decide
/-- The largest and the smallest configuration of R7. -/
theorem witness_valid_config :
    ({ Config.tc with maxPayload := 255, maxChannels := 255, staleThreshold := 2 ^ 32 - 1 } : Config).Valid ∧
    ({ maxPayload := 0, maxChannels := 1, staleThreshold := 0, timeW := 1, chResetValue := 0#16 } : Config).Valid := by
  decide

/-- A word for each clause. -/
theorem witness_CommandWordSelectsOperation :
    (0x03FC#16).toNat / 1024 = 0 ∧ (0x03FC#16).toNat % 4 = 0 ∧
    (0x0001#16).toNat / 1024 = 0 ∧ (0x0001#16).toNat % 4 = 1 ∧ (0x0001#16).toNat / 4 = 0 ∧
    (0x03FE#16).toNat / 1024 = 0 ∧ (0x03FE#16).toNat % 4 = 2 ∧
    (0x0003#16).toNat / 1024 = 0 ∧ (0x0003#16).toNat % 4 = 3 ∧ (0x0003#16).toNat / 4 = 0 := by decide
theorem witness_DecodeOfEncode :
    (Instr.readOk 15#8).wf .tc = true ∧ (encode (.readOk 15#8)).isSome = true ∧ Instr.publish.wf .tc = true ∧
    encode .publish = none ∧ (Instr.poll 5).isCase = false ∧ (Instr.poll 5).presented ≠ none := by decide
theorem witness_EncodeOfDecode : decode (req 0x0042#16 0) = .ok (.read 16#8) := rfl
theorem witness_request_presented :
    (nextEvent (State.reset.withFetchWord 16 0x0400).env).1 = .request (req 0x0400#16 0) ∧
    (nextEvent (State.reset.withFetchWord 16 0x0042).env).1 = .request (req 0x0042#16 0) := by decide
theorem witness_StepRunsDecoded :
    (nextEvent (State.reset.withFetchWord 16 0x0042).env).1 = .request (req 0x0042#16 0) ∧
    decode (req 0x0042#16 0) = .ok (.read 16#8) := ⟨rfl, rfl⟩
/-- A step that answers a next state, for each kind of turn. -/
theorem witness_EachAgentKeepsItsOrder :
    (next (step .reset)).isSome = true ∧
    (next (step (waiting [.producer] [req 0x02A0#16 0] [] []))).isSome = true ∧
    (next (step (waiting [.consumer] [] [req 0x0001#16 0] []))).isSome = true ∧
    (next (step (waiting [.initializer] [] [] [req 0x0003#16 0]))).isSome = true ∧
    (next (step (waiting [.hardwareReset] [] [] []))).isSome = true := by decide
/-- A sync byte and a POLL presented together, in either order. -/
theorem witness_BothOrders :
    decode (req 0x02A0#16 5) = .ok (.byte 0xA8#8 5) ∧ decode (req 0x0001#16 5) = .ok (.poll 5) ∧
    (∃ s₁ s₂, exec (.byte 0xA8#8 5) (waiting [] [] [] []) = .next s₁ ∧ exec (.poll 5) s₁ = .next s₂) ∧
    (∃ s₁ s₂, exec (.poll 5) (waiting [] [] [] []) = .next s₁ ∧ exec (.byte 0xA8#8 5) s₁ = .next s₂) :=
  ⟨rfl, rfl, ⟨_, _, rfl, rfl⟩, ⟨_, _, rfl, rfl⟩⟩
theorem witness_HardwareReset : (waiting [.hardwareReset] [] [] []).env.turns = .hardwareReset :: [] := rfl
theorem witness_NoResultBeforeReset :
    ({ State.reset with booted := false } : State).booted = false ∧ (Instr.pollStale 0).isCase = true := ⟨rfl, rfl⟩
theorem witness_ResetMeetsInvariants : Config.tc.Valid ∧ Config.tc4.Valid := by decide
/-- A step that changes the frame, from a state with both invariants. -/
theorem witness_StepKeeps :
    midPayload.Inv ∧ midPayload.SnapInv ∧
    (next (step ({ midPayload with env := State.reset.env.present (req 0x0080#16 101) } : State))).isSome = true :=
  ⟨midPayload_inv, midPayload_snapInv, by decide⟩
theorem witness_EveryRowKeeps :
    (next (exec (.byteCkLo 0x5A#8 0) sixBytes)).isSome = true ∧ sixBytes.Inv ∧
    (next (exec (.pollReport 0) published)).isSome = true ∧ published.SnapInv :=
  ⟨by decide +kernel, sixBytes_inv, by decide, published_snapInv⟩
theorem witness_StepNeverFaults : sixBytes.Inv := sixBytes_inv
theorem witness_ConfigurationIsReadOnly : step .reset = .next .reset ∧ State.reset.ch.length = State.reset.cfg.maxChannels :=
  ⟨rfl, by decide⟩
/-- The last address of the buffer, not written, a written one, and the first beyond the buffer. -/
theorem witness_BufferPrimitives :
    36 < 5 + sixBytes.cfg.maxPayload ∧ sixBytes.buf.read 36 = none ∧ sixBytes.buf.read 0 = some 0xA8#8 ∧
    5 + sixBytes.cfg.maxPayload ≤ 37 := by decide
/-- A state for each row, at the boundary of its condition. -/
theorem witness_ByteAgreesWithItsCases :
    State.reset.booted = true ∧ State.reset.state = .awaitingSync ∧ (0xA9#8 : Byte) ≠ 0xA8#8 ∧
    (inFrame .readingStatus [0xA8#8] 0).state = .readingStatus ∧ partialFrame.state = .readingLength ∧
    partialFrame.cfg.maxPayload < (33#8).toNat ∧ 1 ≤ (1#8).toNat ∧ (32#8).toNat ≤ partialFrame.cfg.maxPayload ∧
    lastPayloadByte.state = .readingPayload ∧ sixBytes.state = .readingChecksum ∧ sixBytes.idx = 4 + sixBytes.len.toNat ∧
    (inFrame .readingChecksum [0xA8#8, 0x01#8, 0x00#8] 0).idx =
      3 + (inFrame .readingChecksum [0xA8#8, 0x01#8, 0x00#8] 0).len.toNat := by decide
theorem witness_ExactlyOneCaseApplies : sixBytes.Inv ∧ sixBytes.booted = true := ⟨sixBytes_inv, rfl⟩
theorem witness_ByteAlwaysCompletes : midPayload.Inv ∧ midPayload.booted = true := ⟨midPayload_inv, rfl⟩
theorem witness_ByteSync :
    State.reset.booted = true ∧ State.reset.state = .awaitingSync ∧
    midPayload.booted = true ∧ midPayload.state ≠ .awaitingSync := by decide
theorem witness_ByteDrop : State.reset.state = .awaitingSync ∧ (0xA9#8 : Byte) ≠ 0xA8#8 := by decide
theorem witness_ByteStatus :
    (inFrame .readingStatus [0xA8#8] 0).state = .readingStatus ∧ (inFrame .readingStatus [0xA8#8] 0).idx = 1 := ⟨rfl, rfl⟩
theorem witness_OversizedLength :
    partialFrame.booted = true ∧ partialFrame.state = .readingLength ∧ partialFrame.idx = 2 ∧
    partialFrame.cfg.maxPayload < (33#8).toNat := by decide
theorem witness_AcceptedLength :
    partialFrame.state = .readingLength ∧ partialFrame.idx = 2 ∧ 1 ≤ (1#8).toNat ∧
    (1#8).toNat ≤ partialFrame.cfg.maxPayload ∧ (32#8).toNat ≤ partialFrame.cfg.maxPayload := by decide
/-- The last payload byte, and one that is not the last. -/
theorem witness_PayloadByte :
    lastPayloadByte.state = .readingPayload ∧ lastPayloadByte.idx < 5 + lastPayloadByte.cfg.maxPayload ∧
    lastPayloadByte.idx + 1 = 3 + lastPayloadByte.len.toNat ∧
    midPayload.state = .readingPayload ∧ midPayload.idx < 5 + midPayload.cfg.maxPayload ∧
    midPayload.idx + 1 ≠ 3 + midPayload.len.toNat := by decide
theorem witness_ChecksumHighByte :
    (inFrame .readingChecksum [0xA8#8, 0x01#8, 0x00#8] 0).state = .readingChecksum ∧
    (inFrame .readingChecksum [0xA8#8, 0x01#8, 0x00#8] 0).idx =
      3 + (inFrame .readingChecksum [0xA8#8, 0x01#8, 0x00#8] 0).len.toNat ∧
    (inFrame .readingChecksum [0xA8#8, 0x01#8, 0x00#8] 0).len.toNat ≤ 32 := by decide
/-- The frame of R128's example with its own last byte, and with another. -/
theorem witness_Completion :
    sixBytes.state = .readingChecksum ∧ sixBytes.idx = 4 + sixBytes.len.toNat ∧
    sixBytes.len.toNat ≤ sixBytes.cfg.maxPayload ∧ [0x2E#8, 0xE0#8].length = sixBytes.len.toNat ∧
    HoldsBytes sixBytes 0 ([0xA8#8, 0x01#8, sixBytes.len] ++ [0x2E#8, 0xE0#8] ++ [0xE8#8]) ∧
    crc16 ([0xA8#8, 0x01#8, sixBytes.len] ++ [0x2E#8, 0xE0#8]) = 0xE8#8 ++ 0x5A#8 ∧
    crc16 ([0xA8#8, 0x01#8, sixBytes.len] ++ [0x2E#8, 0xE0#8]) ≠ 0xE8#8 ++ 0x5B#8 := by
  unfold HoldsBytes
  decide +kernel
theorem witness_EveryByteInsideAFrame : sixBytes.Inv ∧ sixBytes.booted = true ∧ sixBytes.state ≠ .awaitingSync :=
  ⟨sixBytes_inv, rfl, by decide⟩
theorem witness_DecoderStateMovesForward : ∃ s', exec (.byteLen0 0) partialFrame = .next s' := ⟨_, rfl⟩
theorem witness_Noise :
    State.reset.state = .awaitingSync ∧ ([0x00#8, 0xFF#8] : List Byte) ≠ [] ∧
    ([0x00#8, 0xFF#8] : List Byte).length = [3, 4].length ∧ ∀ b ∈ ([0x00#8, 0xFF#8] : List Byte), b ≠ 0xA8#8 := by decide
theorem witness_OneAlteredByte : (0x20#8 : Byte) ≠ 0x21#8 := by decide
/-- The accumulator after the sync byte; and the last byte of a frame. -/
theorem witness_RunningAccumulator :
    AccHolds (crc16Step crcInit syncByte) (inFrame .readingStatus [0xA8#8] 0) ∧
    (∃ s', exec (.byte 0x01#8 1) (inFrame .readingStatus [0xA8#8] 0) = .next s') ∧
    sixBytes.Inv ∧ sixBytes.state = .readingChecksum ∧ sixBytes.idx = 4 + sixBytes.len.toNat ∧
    byteAt sixBytes (3 + sixBytes.len.toNat) = 0xE8#8 := by
  refine ⟨fun _ bytes hl hh => ?_, ⟨_, rfl⟩, sixBytes_inv, rfl, rfl, rfl⟩
  match bytes, hl with
  | [x], _ =>
    obtain rfl : syncByte = x := Option.some.inj (hh 0 Nat.zero_lt_one)
    rfl
theorem witness_Publish :
    sixBytes.booted = true ∧ sixBytes.len.toNat ≤ sixBytes.cfg.maxPayload ∧
    [0x2E#8, 0xE0#8].length = sixBytes.len.toNat ∧ byteAt sixBytes 1 = 0x01#8 ∧
    HoldsBytes sixBytes 3 [0x2E#8, 0xE0#8] := by
  unfold HoldsBytes
  decide
/-- Right after reset, where the status is a free value. -/
theorem witness_Publish_unwritten :
    State.reset.booted = true ∧ State.reset.len.toNat ≤ State.reset.cfg.maxPayload ∧
    ([] : List Byte).length = State.reset.len.toNat ∧ byteAt .reset 1 = Config.bufferByte 0 1 ∧
    HoldsBytes .reset 3 [] := ⟨rfl, by decide, rfl, rfl, fun _ h => absurd h (Nat.not_lt_zero _)⟩
/-- One operation for each case: a drop, a report, an INIT and a publish. -/
theorem witness_OnlyPublishAndInit :
    (next (exec (.byteDrop 0#8 0) .reset)).isSome = true ∧ (next (exec (.poll 0) published)).isSome = true ∧
    (next (exec (.init true) published)).isSome = true ∧ (next (exec (.byte 0x5A#8 0) sixBytes)).isSome = true := by
  decide +kernel
theorem witness_Counters :
    (after (exec (.byte 33#8 0) partialFrame) fun s => s.out.evt) = some (some .lenOversize) ∧
    (after (exec (.byte 0x5B#8 0) sixBytes) fun s => s.out.evt) = some (some .crcMismatch) ∧
    (after (exec (.poll 0) .reset) fun s => s.out.evt) = some (some .none) := by decide +kernel
theorem witness_PollReports : published.booted = true ∧ published.pub ≠ .nothingNew := by decide
/-- 31 time units after the last byte, one more than the threshold. -/
theorem witness_StalePoll :
    partialFrame.booted = true ∧ partialFrame.pub = .nothingNew ∧ partialFrame.state ≠ .awaitingSync ∧
    ((131 : Int) - partialFrame.lastT) % (2 ^ partialFrame.cfg.timeW : Nat) > partialFrame.cfg.staleThreshold := by decide
/-- Exactly the threshold; and nothing to abort. -/
theorem witness_IdlePoll :
    partialFrame.pub = .nothingNew ∧
    ((130 : Int) - partialFrame.lastT) % (2 ^ partialFrame.cfg.timeW : Nat) ≤ partialFrame.cfg.staleThreshold ∧
    State.reset.pub = .nothingNew ∧ State.reset.state = .awaitingSync := by decide
theorem witness_PollPrecedence :
    published.booted = true ∧ published.pub ≠ .nothingNew ∧ partialFrame.pub = .nothingNew ∧
    partialFrame.state ≠ .awaitingSync := by decide
theorem witness_SecondPoll : ∃ s' s'', exec (.poll 1) published = .next s' ∧ exec (.poll 1) s' = .next s'' :=
  ⟨_, _, rfl, rfl⟩
/-- The smallest and the largest gap of the second clause. -/
theorem witness_Elapsed :
    1 ≤ 1 ∧ 1 < Config.tc.timeSpan - Config.tc.staleThreshold ∧
    Config.tc.timeSpan - Config.tc.staleThreshold - 1 < Config.tc.timeSpan - Config.tc.staleThreshold := by decide
theorem witness_LargestThreshold :
    ({ Config.tc with staleThreshold := 2 ^ 32 - 1 } : Config).staleThreshold + 1 = Config.tc.timeSpan ∧
    (∃ s', exec (.poll 0) { partialFrame with cfg := { Config.tc with staleThreshold := 2 ^ 32 - 1 } } = .next s') :=
  ⟨by decide, ⟨_, rfl⟩⟩
theorem witness_Read :
    State.reset.booted = true ∧ State.reset.ch.length = State.reset.cfg.maxChannels ∧
    (15#8).toNat < State.reset.cfg.maxChannels ∧ State.reset.ch[(15#8).toNat]? = some 0#16 ∧
    State.reset.cfg.maxChannels ≤ (16#8).toNat := by decide
/-- Two states with one snapshot: between frames, and inside the next one. -/
theorem witness_ReadResultAndPollStatus :
    SameSnapshot published { midPayload with ch := published.ch, valid := true, pub := .complete } ∧
    (∃ r, exec (.read 0#8) published = .next r) ∧
    (∃ r status evt, exec (.poll 0) published = .next r ∧ r.out = .poll status evt) :=
  ⟨⟨rfl, rfl, rfl, rfl⟩, ⟨_, rfl⟩, ⟨_, _, _, rfl, rfl⟩⟩
theorem witness_ReadCommutes :
    ∃ s₁ s₂ r₁ r₂, exec (.byte 0x20#8 0) midPayload = .next s₁ ∧ exec (.read 0#8) s₁ = .next s₂ ∧
      exec (.read 0#8) midPayload = .next r₁ ∧ exec (.byte 0x20#8 0) r₁ = .next r₂ ∧ s₁.out ≠ .byte .frameOk :=
  ⟨_, _, _, _, rfl, rfl, rfl, rfl, by decide⟩
theorem witness_EventCode :
    (Instr.byteLenBad 33#8 0).presented = some (.byte 33#8 0) ∧ ∃ s', exec (.byteLenBad 33#8 0) partialFrame = .next s' :=
  ⟨rfl, ⟨_, rfl⟩⟩
/-- The two completions of the frame of R128's example: its own last byte, and another. -/
theorem witness_EventCode_completion :
    (after (exec (.byte 0x5A#8 0) sixBytes) fun s => s.out.evt) = some (some .frameOk) ∧
    (after (exec (.byte 0x5B#8 0) sixBytes) fun s => s.out.evt) = some (some .crcMismatch) ∧
    sixBytes.idx = 4 + sixBytes.len.toNat ∧ HoldsBytes sixBytes 0 ([0xA8#8, 0x01#8, 0x02#8, 0x2E#8, 0xE0#8] ++ [0xE8#8]) ∧
    crc16 [0xA8#8, 0x01#8, 0x02#8, 0x2E#8, 0xE0#8] = 0xE8#8 ++ 0x5A#8 := by
  unfold HoldsBytes
  decide +kernel
/-- The empty payload and the longest one. -/
theorem witness_ValidFrame :
    published.Inv ∧ published.booted = true ∧ published.state = .awaitingSync ∧
    ([] : List Byte).length ≤ published.cfg.maxPayload ∧ (List.replicate 32 0x55#8).length ≤ published.cfg.maxPayload ∧
    (List.replicate 5 0).length = (wireFrame 0x01#8 []).length ∧
    (List.replicate 37 0).length = (wireFrame 0x01#8 (List.replicate 32 0x55#8)).length :=
  ⟨published_inv, by decide +kernel⟩
theorem witness_WrongChecksum :
    published.Inv ∧ crc16 (frameBody 0x01#8 [0x2E#8, 0xE0#8]) ≠ 0xE8#8 ++ 0x5B#8 ∧
    (List.replicate 7 0).length = (frameBody 0x01#8 [0x2E#8, 0xE0#8] ++ [0xE8#8, 0x5B#8]).length :=
  ⟨published_inv, by decide +kernel⟩
theorem witness_AlteredFrame :
    published.Inv ∧ published.state = .awaitingSync ∧ (0x20#8 : Byte) ≠ 0x21#8 ∧
    ([0x1C#8] ++ 0x20#8 :: [] : List Byte).length ≤ published.cfg.maxPayload := ⟨published_inv, by decide⟩
theorem witness_FreshFrame :
    midPayload.Inv ∧ midPayload.booted = true ∧ midPayload.state ≠ .awaitingSync ∧ midPayload.pub = .nothingNew ∧
    ((131 : Int) - midPayload.lastT) % (2 ^ midPayload.cfg.timeW : Nat) > midPayload.cfg.staleThreshold :=
  ⟨midPayload_inv, by decide⟩
/-- Two states between frames that differ in all that is left over, and the step each takes. -/
theorem witness_Leftover :
    published.Inv ∧ { published with buf := [], bufDraw := 9, idx := 3, len := 9#8, lastT := 77 }.Inv ∧
    FrameEquiv published { published with buf := [], bufDraw := 9, idx := 3, len := 9#8, lastT := 77 } ∧
    step published = .next published := by
  refine ⟨published_inv, by constructor <;> decide, ?_, rfl⟩
  exact ⟨rfl, rfl, rfl, rfl, rfl, ⟨rfl, rfl, rfl, rfl⟩, ⟨rfl, rfl⟩, by decide, by decide⟩

end Sys2Proof.Tests
end

section
/-! The rows of BYTE that store one byte, return NONE and leave the length: BYTE.SYNC, BYTE.STATUS, BYTE.PAY and BYTE.CK_HI
(`41_frame_assembler.md` rules R120, R122, R126 and R127). They have one next state in common, `advanced`; one lemma says
what it holds, and one lemma for each row says that the row answers it. BYTE.DROP (R121) stores nothing. -/

namespace Sys2Proof.Machine

/-- The state with the byte `b` accepted at time `t`, gone on to the decoder state `d`, with the result NONE. -/
def advanced (s : State) (b : Byte) (t : Nat) (d : DecoderState) : State :=
  respond { stored s b t with state := d } (.byte .none)

/-- Everything `advanced` writes, and all that it leaves. -/
theorem advanced_effect (s : State) (b : Byte) (t : Nat) (d : DecoderState) :
    (advanced s b t d).state = d ∧ (advanced s b t d).idx = s.idx + 1 ∧ (advanced s b t d).len = s.len ∧
    (advanced s b t d).lastT = t % 2 ^ s.cfg.timeW ∧ StoredAt s (advanced s b t d) s.idx b ∧
    SameSnapshot s (advanced s b t d) ∧ SameCounters s (advanced s b t d) ∧ SameSetting s (advanced s b t d) ∧
    (advanced s b t d).out = .byte .none :=
  ⟨rfl, rfl, rfl, rfl, storedAt_write s s.idx b rfl, ⟨rfl, rfl, rfl, rfl⟩, ⟨rfl, rfl⟩, ⟨rfl, rfl, rfl, rfl⟩, rfl⟩

/-- A row that applies and has room for its byte goes on from the state with the byte stored. The byte is accepted in `u`,
which is `s` itself or, for BYTE.SYNC, `s` with the frame cleared. -/
theorem whenRow_accept {i : Instr} {s u : State} {b : Byte} {t : Nat} {f : State → Except Fault State}
    (hb : s.booted = true) (ha : rowApplies i s = true) (hlt : u.idx < u.cfg.bufCap) :
    whenRow i s (conclude (accept u b t >>= f)) = conclude (f (stored u b t)) := by
  rw [whenRow_of_applies hb ha, accept_of_lt b t hlt, ok_bind]

theorem bytePayload_stored (s : State) (b : Byte) (t : Nat) :
    bytePayload (stored s b t) =
      advanced s b t (if s.idx + 1 = 3 + s.len.toNat then .readingChecksum else s.state) := by
  by_cases h : s.idx + 1 = 3 + s.len.toNat
  · rw [if_pos h]
    exact if_pos h
  · rw [if_neg h]
    exact if_neg h

theorem exec_byteSync_of_awaiting {s : State} (t : Nat) (hb : s.booted = true) (hs : s.state = .awaitingSync) :
    exec (.byteSync t) s = .next (advanced (clearFrame s) syncByte t .readingStatus) :=
  whenRow_accept hb (by simp [rowApplies, hs]) (by simp [Config.bufCap])

theorem exec_byteStatus_of_room {s : State} (b : Byte) (t : Nat) (hb : s.booted = true) (hs : s.state = .readingStatus)
    (hlt : s.idx < s.cfg.bufCap) : exec (.byteStatus b t) s = .next (advanced s b t .readingLength) :=
  whenRow_accept hb (by simp [rowApplies, hs]) hlt

theorem exec_bytePay_of_room {s : State} (b : Byte) (t : Nat) (hb : s.booted = true) (hs : s.state = .readingPayload)
    (hlt : s.idx < s.cfg.bufCap) :
    exec (.bytePay b t) s =
      .next (advanced s b t (if s.idx + 1 = 3 + s.len.toNat then .readingChecksum else .readingPayload)) := by
  have hrow : exec (.bytePay b t) s = .next (bytePayload (stored s b t)) :=
    whenRow_accept hb (by simp [rowApplies, hs]) hlt
  rw [hrow, bytePayload_stored, hs]

theorem exec_byteCkHi_of_room {s : State} (b : Byte) (t : Nat) (hb : s.booted = true) (hs : s.state = .readingChecksum)
    (hi : s.idx = 3 + s.len.toNat) (hlt : s.idx < s.cfg.bufCap) :
    exec (.byteCkHi b t) s = .next (advanced s b t .readingChecksum) := by
  have hrow : exec (.byteCkHi b t) s = .next (advanced s b t s.state) :=
    whenRow_accept hb (by simp [rowApplies, hs, hi]) hlt
  rw [hrow, hs]

/-! ## The obligations -/

/-- Settles O23: the byte is stored in the state whose frame is cleared, so at address 0; in any other state the row does
not apply. -/
theorem byteSyncStartsAFrame : Obligations.ByteSyncStartsAFrame := by
  intro s t hb
  constructor
  · intro hs
    exact ⟨_, exec_byteSync_of_awaiting t hb hs, advanced_effect (clearFrame s) syncByte t .readingStatus⟩
  · intro hs s' hnext
    obtain ⟨-, happlies, -⟩ := whenRow_eq_next.mp hnext
    exact hs (by simpa [rowApplies] using happlies)

/-- Settles O24: the row applies, and its body only returns SYNC_MISS. -/
theorem byteDropChangesNothing : Obligations.ByteDropChangesNothing := by
  intro s b t hb hs hne
  exact whenRow_of_applies hb (decide_eq_true ⟨hs, hne⟩)

/-- Settles O25: position 1 is inside every buffer, so the row answers `advanced`. -/
theorem byteStatusStoresTheStatus : Obligations.ByteStatusStoresTheStatus := by
  intro s b t hb hs hi
  have hlt : s.idx < s.cfg.bufCap := by simp only [Config.bufCap]; omega
  refine ⟨_, exec_byteStatus_of_room b t hb hs hlt, ?_⟩
  simpa only [hi] using advanced_effect s b t .readingLength

/-- Settles O28: the row answers `advanced`, and the new position selects the decoder state. -/
theorem payloadByteIsAppended : Obligations.PayloadByteIsAppended := by
  intro s b t hb hs hlt
  obtain ⟨hstate, hrest⟩ :=
    advanced_effect s b t (if s.idx + 1 = 3 + s.len.toNat then .readingChecksum else .readingPayload)
  exact ⟨_, exec_bytePay_of_room b t hb hs hlt, fun hlast => hstate.trans (if_pos hlast),
    fun hmore => hstate.trans (if_neg hmore), hrest⟩

/-- Settles O29: position `3 + L` is inside the buffer as `L` is at most `MAX_PAYLOAD`, so the row answers `advanced`. -/
theorem checksumHighByteIsStored : Obligations.ChecksumHighByteIsStored := by
  intro s b t hb hs hi hlen
  have hlt : s.idx < s.cfg.bufCap := by simp only [Config.bufCap]; omega
  obtain ⟨hstate, hidx, hl, ht, hstored, hrest⟩ := advanced_effect s b t .readingChecksum
  exact ⟨_, exec_byteCkHi_of_room b t hb hs hi hlt, hstate, by omega, hl, ht, hi ▸ hstored, hrest⟩

end Sys2Proof.Machine
end

section
/-! The decoded value of one channel (`42_channel_decoder.md` rule R152). -/

namespace Sys2Proof.Machine

/-- The quotient fits the 16-bit entry, so no part of it is lost (R152). -/
@[simp] theorem microseconds_toNat (raw : Word) : (microseconds raw).toNat = raw.toNat / 8 :=
  Nat.mod_eq_of_lt (Nat.lt_of_le_of_lt (Nat.div_le_self _ _) raw.isLt)

theorem microseconds_eq_ushiftRight (raw : Word) : microseconds raw = raw >>> 3 := by
  apply BitVec.eq_of_toNat_eq
  rw [microseconds_toNat, BitVec.toNat_ushiftRight, Nat.shiftRight_eq_div_pow]

theorem microseconds_toNat_lt (raw : Word) : (microseconds raw).toNat < 2 ^ 13 := by
  have hraw : raw.toNat < 2 ^ 16 := raw.isLt
  rw [microseconds_toNat]
  omega

/-- Settles O39: the quotient is below `2^13`, which gives both the range and the zero bits 15 to 13. -/
theorem microsecondsIsRawDivEight : Obligations.MicrosecondsIsRawDivEight := by
  intro raw
  have hlt := microseconds_toNat_lt raw
  refine ⟨microseconds_toNat raw, microseconds_eq_ushiftRight raw, Nat.le_of_lt_succ hlt, ?_⟩
  apply BitVec.eq_of_toNat_eq
  rw [BitVec.extractLsb'_toNat, Nat.shiftRight_eq_div_pow, Nat.div_eq_of_lt hlt]
  rfl

end Sys2Proof.Machine
end

section
/-! POLL and its cases: the publish state, then the watchdog (`43_status_watchdog.md` rules R170 to R176). -/

namespace Sys2Proof.Machine

variable {s : State} {now : Nat}

/-! ## Which of its three ends POLL takes -/

theorem pollOp_of_pub (hp : s.pub ≠ .nothingNew) : pollOp s now = reportStatus s := if_pos hp

theorem pollOp_of_stale (hp : s.pub = .nothingNew) (hs : s.state ≠ .awaitingSync) (hstale : stale s now = true) :
    pollOp s now = abortFrame s :=
  (if_neg (not_not_intro hp)).trans (if_pos ⟨hs, hstale⟩)

theorem pollOp_of_idle (hp : s.pub = .nothingNew) (hidle : s.state = .awaitingSync ∨ stale s now = false) :
    pollOp s now = reportNothing s := by
  have hkeep : ¬ (s.state ≠ .awaitingSync ∧ stale s now = true) := by
    rintro ⟨hs, hstale⟩
    rcases hidle with hwait | hfresh
    · exact hs hwait
    · exact Bool.false_ne_true (hfresh.symm.trans hstale)
  exact (if_neg (not_not_intro hp)).trans (if_neg hkeep)

theorem exec_poll_of_booted {s' : State} (hb : s.booted = true) (h : pollOp s now = s') :
    exec (.poll now) s = .next s' :=
  exec_poll_eq_next.mpr ⟨hb, h.symm⟩

/-! ## The obligations -/

/-- Settles O45: the publish state, and then the watchdog's comparison (R174), select the end POLL takes; `stale_iff` and
`not_stale_iff` read that comparison as one of elapsed times. -/
theorem pollPrecedence : Obligations.PollPrecedence := by
  intro s now hb
  refine ⟨fun hp => ?report, fun hp hs helapsed => ?stale, fun hp hidle => ?idle⟩
  case report => exact exec_poll_of_booted hb (pollOp_of_pub hp)
  case stale => exact exec_poll_of_booted hb (pollOp_of_stale hp hs ((stale_iff s now).mpr helapsed))
  case idle => exact exec_poll_of_booted hb (pollOp_of_idle hp (hidle.imp_right (not_stale_iff s now).mpr))

/-- Settles O42: the row applies, as its condition is that there is something to report, and its body is
`reportStatus`. -/
theorem pollReportsOnce : Obligations.PollReportsOnce := by
  intro s now hb hp
  exact whenRow_of_applies hb (decide_eq_true hp)

/-- Settles O44: the row applies, as an elapsed time up to the threshold, equal included, is not stale, and its body is
`reportNothing`. -/
theorem idlePollChangesNothing : Obligations.IdlePollChangesNothing := by
  intro s now hb hp hidle
  have happlies : rowApplies (.pollIdle now) s = true :=
    decide_eq_true ⟨hp, hidle.imp_right (not_stale_iff s now).mpr⟩
  exact whenRow_of_applies hb happlies

end Sys2Proof.Machine
end

section
/-! The command word (`30_encoding.md` rules R73, R76 and R78): the decoder after the encoder, the encoder after the
decoder, and the words that are refused. -/

namespace Sys2Proof

/-! ## What the environment presents -/

/-- A row of the opcode table that has a command word has that of BYTE, POLL, READ or INIT (R73). -/
theorem presented_cases {i w : Instr} (h : i.presented = some w) :
    (∃ b t, w = .byte b t) ∨ (∃ now, w = .poll now) ∨ (∃ k, w = .read k) ∨ ∃ attached, w = .init attached := by
  cases i with
  | byte | byteSync | byteDrop | byteStatus | byteLenBad | byteLen | byteLen0 | bytePay | byteCkHi | byteCkLo =>
    exact .inl ⟨_, _, (Option.some.inj h).symm⟩
  | poll | pollReport | pollStale | pollIdle => exact .inr (.inl ⟨_, (Option.some.inj h).symm⟩)
  | read | readOk | readBad => exact .inr (.inr (.inl ⟨_, (Option.some.inj h).symm⟩))
  | init => exact .inr (.inr (.inr ⟨_, (Option.some.inj h).symm⟩))
  | crc16Step | publish => cases h

/-- A row that is no case and has a command word is the operation that the word presents. -/
theorem presented_of_not_case {i w : Instr} (hcase : i.isCase = false) (h : i.presented = some w) : w = i := by
  cases i with
  | byte | poll | read | init => exact (Option.some.inj h).symm
  | crc16Step | publish => cases h
  | byteSync | byteDrop | byteStatus | byteLenBad | byteLen | byteLen0 | bytePay | byteCkHi | byteCkLo => cases hcase
  | pollReport | pollStale | pollIdle | readOk | readBad => cases hcase

/-- INIT has no cases. -/
theorem eq_init_of_presented {i : Instr} {attached : Bool} (h : i.presented = some (.init attached)) :
    i = .init attached := by
  cases i with
  | init a => exact Option.some.inj h
  | byte | byteSync | byteDrop | byteStatus | byteLenBad | byteLen | byteLen0 | bytePay | byteCkHi | byteCkLo => cases h
  | poll | pollReport | pollStale | pollIdle | read | readOk | readBad | crc16Step | publish => cases h

/-- The operation whose word a well-formed row shares is well-formed: `Laws/PerInstr.lean`, row by row. -/
theorem presented_wf {c : Config} {i w : Instr} (hwf : i.wf c = true) (h : i.presented = some w) : w.wf c = true := by
  have hrow : Laws.Presented.Statement i := by
    cases i with
    | byte b t => exact Laws.Presented.byte b t
    | byteSync t => exact Laws.Presented.byteSync t
    | byteDrop b t => exact Laws.Presented.byteDrop b t
    | byteStatus b t => exact Laws.Presented.byteStatus b t
    | byteLenBad b t => exact Laws.Presented.byteLenBad b t
    | byteLen b t => exact Laws.Presented.byteLen b t
    | byteLen0 t => exact Laws.Presented.byteLen0 t
    | bytePay b t => exact Laws.Presented.bytePay b t
    | byteCkHi b t => exact Laws.Presented.byteCkHi b t
    | byteCkLo b t => exact Laws.Presented.byteCkLo b t
    | poll now => exact Laws.Presented.poll now
    | pollReport now => exact Laws.Presented.pollReport now
    | pollStale now => exact Laws.Presented.pollStale now
    | pollIdle now => exact Laws.Presented.pollIdle now
    | read k => exact Laws.Presented.read k
    | readOk k => exact Laws.Presented.readOk k
    | readBad k => exact Laws.Presented.readBad k
    | init attached => exact Laws.Presented.init attached
    | crc16Step acc b => exact Laws.Presented.crc16Step acc b
    | publish => exact Laws.Presented.publish
  obtain ⟨hw, -, -⟩ := hrow c w hwf h
  exact hw

/-! ## The decoder, word by word -/

theorem decode_byteWord (b : Byte) (t : Nat) (attached : Bool) :
    decode { cw := commandWord 0#2 b, time := t, attached := attached } = .ok (.byte b t) := by
  simp [decode]

theorem decode_readWord (k : Byte) (t : Nat) (attached : Bool) :
    decode { cw := commandWord 2#2 k, time := t, attached := attached } = .ok (.read k) := by
  simp [decode]

theorem decode_pollWord (now : Nat) (attached : Bool) :
    decode { cw := commandWord 1#2 0#8, time := now, attached := attached } = .ok (.poll now) := by
  simp [decode]

theorem decode_initWord (t : Nat) (attached : Bool) :
    decode { cw := commandWord 3#2 0#8, time := t, attached := attached } = .ok (.init attached) := by
  simp [decode]

/-- R78: exactly these words are refused. -/
theorem decode_error_iff {r : Request} :
    (∃ e, decode r = .error e) ↔
      reservedField r.cw ≠ 0#6 ∨ ((opField r.cw = 1#2 ∨ opField r.cw = 3#2) ∧ argField r.cw ≠ 0#8) := by
  have hop : ∀ x : BitVec 2, x = 0#2 ∨ x = 1#2 ∨ x = 2#2 ∨ x = 3#2 := by decide
  by_cases hr : reservedField r.cw = 0#6
  · by_cases ha : argField r.cw = 0#8 <;>
      rcases hop (opField r.cw) with h | h | h | h <;> simp [decode, hr, h, ha]
  · simp [decode, hr]

theorem decode_encode {i : Instr} {r : Request} (h : encode i = some r) :
    ∃ w, i.presented = some w ∧ decode r = .ok w := by
  cases i with
  | byte b t | byteDrop b t | byteStatus b t | byteLenBad b t | byteLen b t | bytePay b t | byteCkHi b t
  | byteCkLo b t =>
    obtain rfl := Option.some.inj h
    exact ⟨_, rfl, decode_byteWord b t false⟩
  | byteSync t =>
    obtain rfl := Option.some.inj h
    exact ⟨_, rfl, decode_byteWord syncByte t false⟩
  | byteLen0 t =>
    obtain rfl := Option.some.inj h
    exact ⟨_, rfl, decode_byteWord 0#8 t false⟩
  | poll now | pollReport now | pollStale now | pollIdle now =>
    obtain rfl := Option.some.inj h
    exact ⟨_, rfl, decode_pollWord now false⟩
  | read k | readOk k | readBad k =>
    obtain rfl := Option.some.inj h
    exact ⟨_, rfl, decode_readWord k 0 false⟩
  | init attached =>
    obtain rfl := Option.some.inj h
    exact ⟨_, rfl, decode_initWord 0 attached⟩
  | crc16Step | publish => cases h

/-- The internal rows, and only they, have no command word. -/
theorem encode_eq_none_iff (i : Instr) : encode i = none ↔ i.presented = none := by
  cases i <;> simp [encode, Instr.presented]

/-! ## The obligations -/

/-- Settles O3: `decode_encode` gives the operation, `presented_wf` its well-formedness. -/
theorem decodeOfEncodeGivesPresentedOperation : Obligations.DecodeOfEncodeGivesPresentedOperation := by
  intro c i hwf
  refine ⟨fun r hr => ?_, encode_eq_none_iff i, fun hcase hsome => ?_⟩
  · obtain ⟨w, hw, hdecode⟩ := decode_encode hr
    exact ⟨w, hw, hdecode, presented_wf hwf hw⟩
  · obtain ⟨w, hw⟩ := Option.ne_none_iff_exists'.mp hsome
    exact presented_of_not_case hcase hw ▸ hw

/-- Settles O4: the word is made of its fields, and the fields of an accepted word are those that `encode` writes. -/
theorem encodeOfDecodeGivesTheWordBack : Obligations.EncodeOfDecodeGivesTheWordBack := by
  intro r i h
  obtain ⟨hreserved, hi⟩ := decode_eq_ok h
  have hcw := commandWord_of_fields hreserved
  rcases hi with ⟨hop, rfl⟩ | ⟨hop, harg, rfl⟩ | ⟨hop, rfl⟩ | ⟨hop, harg, rfl⟩
  · exact ⟨_, rfl, by rw [← hcw, hop]; simp, rfl⟩
  · exact ⟨_, rfl, by rw [← hcw, hop, harg]; rfl, rfl⟩
  · exact ⟨_, rfl, by rw [← hcw, hop]; simp, rfl⟩
  · exact ⟨_, rfl, by rw [← hcw, hop, harg]; rfl, rfl⟩

/-- Settles O1: each of the nine words is a closed term. -/
theorem specWordsDecode : Obligations.SpecWordsDecode :=
  ⟨rfl, rfl, rfl, rfl, rfl, rfl, rfl, rfl, rfl⟩

/-- Settles O2: a word below 1024 has no reserved bit, and its two low bits are the operation. -/
theorem commandWordSelectsOperation : Obligations.CommandWordSelectsOperation := by
  intro r hr
  have hreserved := (reservedField_eq_zero r.cw).mpr hr
  have harg : r.cw.toNat / 4 = 0 → argField r.cw = 0#8 := fun h => (argField_eq_zero r.cw).mpr (by rw [h])
  refine ⟨fun h => ?byte, fun h h0 => ?poll, fun h => ?read, fun h h0 => ?init⟩
  case byte => simp [decode, hreserved, (opField_iff r.cw 0 (by decide)).mpr h, argField_eq]
  case poll => simp [decode, hreserved, (opField_iff r.cw 1 (by decide)).mpr h, harg h0]
  case read => simp [decode, hreserved, (opField_iff r.cw 2 (by decide)).mpr h, argField_eq]
  case init => simp [decode, hreserved, (opField_iff r.cw 3 (by decide)).mpr h, harg h0]

end Sys2Proof

namespace Sys2Proof.Machine

theorem whenBooted_eq_refused {s : State} {k : Answer} {why : Refusal} (h : whenBooted s k = .refused why) :
    (s.booted = false ∧ why = .beforeFirstReset) ∨ k = .refused why := by
  cases hb : s.booted with
  | false => exact .inl ⟨rfl, by simpa [whenBooted, hb, eq_comm] using h⟩
  | true => exact .inr ((whenBooted_of_booted hb).symm.trans h)

/-- Of the operations the environment presents, none is refused but for coming before the first reset (R231). -/
theorem exec_presented_eq_refused {i : Instr} {s : State} {why : Refusal} (hi : i.presented = some i)
    (h : exec i s = .refused why) : s.booted = false ∧ why = .beforeFirstReset := by
  rcases presented_cases hi with ⟨b, t, rfl⟩ | ⟨now, rfl⟩ | ⟨k, rfl⟩ | ⟨attached, rfl⟩
  · exact (whenBooted_eq_refused h).resolve_right conclude_ne_refused
  · exact (whenBooted_eq_refused h).resolve_right (by simp)
  · exact (whenBooted_eq_refused h).resolve_right conclude_ne_refused
  · cases h

/-- A step is refused for its word exactly when the decoder rejects the word. -/
theorem step_reservedWord_iff {s : State} {r : Request} (hr : (nextEvent s.env).1 = .request r) :
    (∃ why, step s = .refused (.reservedWord why)) ↔ ∃ e, decode r = .error e := by
  simp only [step_eq_refused, hr, Event.request.injEq, exists_eq_left', Refusal.reservedWord.injEq]
  constructor
  · rintro ⟨why, ⟨e, he, -⟩ | ⟨i, hi, hexec⟩⟩
    · exact ⟨e, he⟩
    · obtain ⟨-, hwhy⟩ := exec_presented_eq_refused (presented_of_decode hi) hexec
      cases hwhy
  · rintro ⟨e, he⟩
    exact ⟨e, .inl ⟨e, he, rfl⟩⟩

/-- Settles O5: the decoder rejects exactly the words of R78, and no operation is refused as a reserved word. -/
theorem reservedWordsAreRefused : Obligations.ReservedWordsAreRefused := by
  intro s r hr
  rw [step_reservedWord_iff hr, decode_error_iff]
  simp only [ne_eq, reservedField_eq_zero, argField_eq_zero, opField_iff r.cw 1 (by decide),
    opField_iff r.cw 3 (by decide)]

end Sys2Proof.Machine
end

section
/-! The checksum unit (`40_checksum.md` rules R100 and R101): the eight rounds are the bit-serial checksum, a sequence
with its own checksum has checksum 0, and the step is injective in the accumulator and in the byte. -/

namespace Sys2Proof.Machine

/-! ## The rounds, bit by bit -/

/-- The `n` top bits of a word, most significant first. -/
def topBits : Nat → Word → List Bool
  | 0, _ => []
  | n + 1, w => w.getLsbD 15 :: topBits n (w <<< 1)

/-- A round on an accumulator into which a word was XORed takes that word's top bit, and leaves the word's other bits
for the rounds to come. -/
theorem crcRound_xor (acc w : Word) : crcRound (acc ^^^ w) = crcBit acc (w.getLsbD 15) ^^^ (w <<< 1) := by
  have htop : (acc ^^^ w).getLsbD 15 = (acc.getLsbD 15 != w.getLsbD 15) := BitVec.getLsbD_xor
  have hswap : acc <<< 1 ^^^ w <<< 1 ^^^ crcPoly = acc <<< 1 ^^^ 0x1021#16 ^^^ w <<< 1 := by
    rw [BitVec.xor_assoc, BitVec.xor_comm (w <<< 1), ← BitVec.xor_assoc]
    rfl
  unfold crcRound crcBit
  rw [htop, BitVec.shiftLeft_xor_distrib]
  split
  · exact hswap
  · rfl

theorem crcRounds_xor (n : Nat) (acc w : Word) :
    crcRounds n (acc ^^^ w) = (topBits n w).foldl crcBit acc ^^^ (w <<< n) := by
  induction n generalizing acc w with
  | zero => simp [crcRounds, topBits]
  | succ n ih =>
    rw [crcRounds, crcRound_xor, ih, topBits, List.foldl_cons, ← BitVec.shiftLeft_add, Nat.add_comm 1 n]

/-- The word that R100 XORs a byte in as has the byte's bits on top. -/
theorem topBits_byte (b : Byte) : topBits 8 (b.setWidth 16 <<< 8) = bitsMsbFirst b := by
  simp [topBits, bitsMsbFirst]

/-- The step of a byte takes the byte's bits one after another (R100). -/
theorem crc16Step_eq_foldl (acc : Word) (b : Byte) : crc16Step acc b = (bitsMsbFirst b).foldl crcBit acc := by
  have hout : (b.setWidth 16 <<< 8 <<< 8 : Word) = 0#16 := by
    rw [← BitVec.shiftLeft_add]
    exact BitVec.shiftLeft_eq_zero (by decide)
  rw [crc16Step, crcRounds_xor, topBits_byte, hout, BitVec.xor_zero]

theorem foldl_crc16Step_eq (acc : Word) (bs : List Byte) :
    bs.foldl crc16Step acc = (bs.flatMap bitsMsbFirst).foldl crcBit acc := by
  induction bs generalizing acc with
  | nil => rfl
  | cons b bs ih => rw [List.foldl_cons, ih, crc16Step_eq_foldl, List.flatMap_cons, List.foldl_append]

/-! ## A checksum appended to its sequence -/

/-- A byte alone in the low half passes 8 rounds by moving to the high half. -/
theorem crcRounds_low (b : Byte) : crcRounds 8 (b.setWidth 16) = b.setWidth 16 <<< 8 := by
  have hbits : topBits 8 (b.setWidth 16) = List.replicate 8 false := by
    simp [topBits, List.replicate]
  have hfold : (List.replicate 8 false).foldl crcBit 0#16 = 0#16 := by decide
  have h := crcRounds_xor 8 0#16 (b.setWidth 16)
  rwa [hbits, hfold, BitVec.zero_xor, BitVec.zero_xor] at h

/-- The step of an accumulator's own high byte leaves its low byte, moved to the high half. -/
theorem crc16Step_hiByte (acc : Word) : crc16Step acc (hiByte acc) = (loByte acc).setWidth 16 <<< 8 := by
  have hlow : acc ^^^ ((hiByte acc).setWidth 16 <<< 8) = (loByte acc).setWidth 16 := by
    ext i hi
    by_cases h8 : i < 8
    · simp [hiByte, loByte, h8, hi]
    · have hs : 8 + (i - 8) = i := by omega
      simp [hiByte, loByte, h8, hi, hs, show i - 8 < 8 by omega]
  rw [crc16Step, hlow, crcRounds_low]

theorem crc16Step_self (b : Byte) : crc16Step (b.setWidth 16 <<< 8) b = 0#16 := by
  rw [crc16Step, BitVec.xor_self]
  rfl

/-! ## Injectivity -/

/-- The polynomial has bit 0, so a round shows in bit 0 whether the top bit was set, and nothing is lost. -/
theorem crcRound_injective : Function.Injective crcRound := by
  intro a a' h
  have hbit : ∀ x : Word, (crcRound x).getLsbD 0 = x.getLsbD 15 := by
    intro x
    unfold crcRound
    split <;> simp_all [crcPoly]
  have htop : a.getLsbD 15 = a'.getLsbD 15 := by rw [← hbit, ← hbit, h]
  have hshift : a <<< 1 = a' <<< 1 := by
    unfold crcRound at h
    rw [← htop] at h
    split at h
    · exact (BitVec.xor_left_inj _).mp h
    · exact h
  have hlow : ∀ i, i < 15 → a.getLsbD i = a'.getLsbD i := by
    intro i hi
    have hnext := congrArg (fun v => BitVec.getLsbD v (i + 1)) hshift
    simpa only [BitVec.getLsbD_shiftLeft, show i + 1 < 16 by omega, show ¬ i + 1 < 1 by omega, Nat.add_sub_cancel,
      decide_true, decide_false, Bool.not_false, Bool.true_and] using hnext
  apply BitVec.eq_of_getLsbD_eq
  intro i hi
  rcases Nat.lt_succ_iff_lt_or_eq.mp hi with hi | rfl
  · exact hlow i hi
  · exact htop

theorem crcRounds_injective (n : Nat) : Function.Injective (crcRounds n) := by
  induction n with
  | zero => exact Function.injective_id
  | succ n ih => exact ih.comp crcRound_injective

theorem crc16Step_injective_acc (b : Byte) : Function.Injective (crc16Step · b) :=
  fun _ _ h => (BitVec.xor_left_inj _).mp (crcRounds_injective 8 h)

theorem crc16Step_injective_byte (acc : Word) : Function.Injective (crc16Step acc) := by
  intro b b' h
  have hshift : (b.setWidth 16 <<< 8 : Word) = b'.setWidth 16 <<< 8 :=
    (BitVec.xor_right_inj _).mp (crcRounds_injective 8 h)
  apply BitVec.eq_of_toNat_eq
  have hnat := congrArg BitVec.toNat hshift
  have := b.isLt
  have := b'.isLt
  simp only [BitVec.toNat_shiftLeft, BitVec.toNat_setWidth, Nat.shiftLeft_eq] at hnat
  omega

theorem foldl_crc16Step_injective (ys : List Byte) : Function.Injective (fun acc => ys.foldl crc16Step acc) := by
  induction ys with
  | nil => exact Function.injective_id
  | cons y ys ih => exact ih.comp (crc16Step_injective_acc y)

/-! ## The obligations -/

/-- Settles O34: `crc16Step_eq_foldl` for the step, and byte after byte for a sequence. -/
theorem crcStepIsBitSerial : Obligations.CrcStepIsBitSerial := by
  refine ⟨fun acc b s => ?_, rfl, foldl_crc16Step_eq crcInit⟩
  rw [exec_crc16Step_eq_next, ← crc16Step_eq_foldl]
  rfl

/-- Settles O35: the first appended byte leaves the second in the high half of the accumulator, which the second clears.
-/
theorem checksumOfCheckedSequenceIsZero : Obligations.ChecksumOfCheckedSequenceIsZero := by
  intro bs
  rw [crc16_append, List.foldl_cons, List.foldl_cons, List.foldl_nil, crc16Step_hiByte, crc16Step_self]

/-- Settles O36: the step tells the two bytes apart, and every further step keeps the two accumulators apart. -/
theorem checksumDetectsOneAlteredByte : Obligations.ChecksumDetectsOneAlteredByte := by
  intro xs ys a b hab h
  rw [crc16_append, crc16_append] at h
  exact hab (crc16Step_injective_byte _ (foldl_crc16Step_injective ys h))

end Sys2Proof.Machine
end

section
/-! Sequences of bytes in the frame buffer (`20_memory.md` rules R51 and R52), and PUBLISH on the frame they make
(`42_channel_decoder.md` rules R150 to R155). -/

namespace Sys2Proof.Machine

/-! ## The bytes the buffer holds -/

/-- At one place the buffer holds one sequence of a given length. -/
theorem HoldsBytes.unique {s : State} {a : Nat} {xs ys : List Byte} (hx : HoldsBytes s a xs) (hy : HoldsBytes s a ys)
    (hlen : xs.length = ys.length) : xs = ys := by
  apply List.ext_getElem?
  intro k
  by_cases hk : k < xs.length
  · exact (hx k hk).symm.trans (hy k (hlen ▸ hk))
  · rw [List.getElem?_eq_none (by omega), List.getElem?_eq_none (by omega)]

theorem exists_holdsBytes (s : State) (a n : Nat) : ∃ bs : List Byte, bs.length = n ∧ HoldsBytes s a bs := by
  refine ⟨(List.range n).map fun k => byteAt s (a + k), by simp, fun k hk => ?_⟩
  rw [List.length_map, List.length_range] at hk
  simp [hk]

/-- Which bytes a range holds depends on the entries of the range only. -/
theorem HoldsBytes.congr {s s' : State} {a : Nat} {bs : List Byte} (h : HoldsBytes s a bs)
    (heq : ∀ x, a ≤ x → x < a + bs.length → byteAt s' x = byteAt s x) : HoldsBytes s' a bs := by
  intro k hk
  rw [heq (a + k) (by omega) (by omega)]
  exact h k hk

theorem holdsBytes_append {s : State} {a : Nat} {xs ys : List Byte} :
    HoldsBytes s a (xs ++ ys) ↔ HoldsBytes s a xs ∧ HoldsBytes s (a + xs.length) ys := by
  constructor
  · intro h
    refine ⟨fun k hk => ?_, fun k hk => ?_⟩
    · rw [h k (by rw [List.length_append]; omega), List.getElem?_append_left hk]
    · rw [Nat.add_assoc, h (xs.length + k) (by rw [List.length_append]; omega),
        List.getElem?_append_right (by omega), Nat.add_sub_cancel_left]
  · rintro ⟨hx, hy⟩ k hk
    rw [List.length_append] at hk
    by_cases hlt : k < xs.length
    · rw [List.getElem?_append_left hlt, hx k hlt]
    · rw [List.getElem?_append_right (by omega), ← hy (k - xs.length) (by omega)]
      congr 2
      omega

theorem holdsBytes_singleton {s : State} {a : Nat} {b : Byte} : HoldsBytes s a [b] ↔ byteAt s a = b := by
  constructor
  · intro h
    simpa using h 0 (by simp)
  · rintro rfl k hk
    obtain rfl : k = 0 := by simpa using hk
    rfl

/-- Storing a byte leaves what was held before its address. -/
theorem holdsBytes_stored {s : State} {b : Byte} {t a : Nat} {bs : List Byte} (hlt : a + bs.length ≤ s.idx) :
    HoldsBytes (stored s b t) a bs ↔ HoldsBytes s a bs := by
  have heq : ∀ x, a ≤ x → x < a + bs.length → byteAt (stored s b t) x = byteAt s x :=
    fun x _ hx => byteAt_stored_other s b t (by omega)
  exact ⟨fun h => h.congr fun x hl hx => (heq x hl hx).symm, fun h => h.congr heq⟩

/-- A byte stored after the bytes of the frame so far is the next byte of the frame. -/
theorem holdsBytes_stored_concat {s : State} {b c : Byte} {t : Nat} {bs : List Byte} (hlen : bs.length = s.idx) :
    HoldsBytes (stored s b t) 0 (bs ++ [c]) ↔ HoldsBytes s 0 bs ∧ b = c := by
  rw [holdsBytes_append, holdsBytes_stored (by omega), holdsBytes_singleton, Nat.zero_add, hlen, byteAt_stored_same]

/-- A range inside the buffer reads as the bytes it holds. -/
theorem readBytes_of_holds {s : State} {a : Nat} {bs : List Byte} (h : HoldsBytes s a bs)
    (hroom : a + bs.length ≤ s.cfg.bufCap) : readBytes s a bs.length = .ok bs :=
  readBytes_eq_ok.mpr ⟨rfl, fun _ => hroom, h⟩

/-! ## The channels of a payload -/

theorem microseconds_be16 (h l : Byte) : microseconds (be16 h l) = BitVec.ofNat 16 ((h.toNat * 256 + l.toNat) / 8) := by
  rw [microseconds, be16_toNat]
  rfl

/-- The decoded values of a payload are its channels in order. -/
theorem rawValues_getElem? (bs : List Byte) (i : Nat) : ((rawValues bs).map microseconds)[i]? = channelOf bs i := by
  induction bs using rawValues.induct generalizing i with
  | case1 h l rest ih =>
    cases i with
    | zero => simp [rawValues, channelOf, microseconds_be16]
    | succ i =>
      have hnext : channelOf (h :: l :: rest) (i + 1) = channelOf rest i := by
        simp [channelOf, Nat.mul_add]
      rw [hnext, ← ih i]
      simp [rawValues]
  | case2 bs hshort =>
    cases bs with
    | nil => simp [rawValues, channelOf]
    | cons a r =>
      cases r with
      | nil => simp [rawValues, channelOf]
      | cons b r => exact absurd rfl (hshort a b r)

/-- A channel is in the part of the payload up to its second byte. -/
theorem channelOf_take {bs : List Byte} {i n : Nat} (hi : 2 * i + 1 < n) : channelOf (bs.take n) i = channelOf bs i := by
  unfold channelOf
  rw [List.getElem?_take_of_lt hi, List.getElem?_take_of_lt (by omega)]

/-! ## PUBLISH -/

/-- R154: the mask is the value of bit 7. -/
theorem failsafe_eq_getLsbD (status : Byte) : failsafe status = status.getLsbD 7 := by
  have hmask : failsafeMask = BitVec.twoPow 8 7 := by decide
  have hne : BitVec.twoPow 8 7 ≠ 0#8 := by decide
  unfold failsafe
  rw [hmask, BitVec.and_twoPow]
  cases status.getLsbD 7 <;> simp [hne]

/-- PUBLISH writes the snapshot and the publish state, and nothing else. -/
theorem publishFrame_frame {s p : State} (h : publishFrame s = .ok p) :
    SameFrame s p ∧ SameCounters s p ∧ SameSetting s p ∧ p.out = s.out ∧ p.buf = s.buf := by
  obtain ⟨us, status, -, -, rfl⟩ := publishFrame_eq_ok.mp h
  exact ⟨⟨rfl, rfl, rfl, rfl, fun _ => rfl⟩, ⟨rfl, rfl⟩, ⟨rfl, rfl, rfl, rfl⟩, rfl, rfl⟩

/-- A payload that the buffer has room for decodes to its channels. -/
theorem decodeChannels_of_holds {s : State} {payload : List Byte} (hlen : s.len.toNat ≤ s.cfg.maxPayload)
    (hpay : payload.length = s.len.toNat) (hheld : HoldsBytes s 3 payload) :
    decodeChannels s =
      .ok ((rawValues (payload.take (2 * channelsDecoded s.cfg s.len))).map microseconds) := by
  have hn : 2 * channelsDecoded s.cfg s.len ≤ payload.length := by
    unfold channelsDecoded
    omega
  have htake : (payload.take (2 * channelsDecoded s.cfg s.len)).length = 2 * channelsDecoded s.cfg s.len :=
    List.length_take_of_le hn
  have hpart : HoldsBytes s 3 (payload.take (2 * channelsDecoded s.cfg s.len)) := by
    rw [← List.take_append_drop (2 * channelsDecoded s.cfg s.len) payload] at hheld
    exact (holdsBytes_append.mp hheld).1
  have hread := readBytes_of_holds hpart (by unfold Config.bufCap; omega)
  rw [htake] at hread
  exact decodeChannels_eq_ok.mpr ⟨_, hread, rfl⟩

/-- R155: on a frame of at most `MAX_PAYLOAD` bytes PUBLISH completes, and publishes that frame's status and payload. -/
theorem publishFrame_of_holds {s : State} {payload : List Byte} (hlen : s.len.toNat ≤ s.cfg.maxPayload)
    (hpay : payload.length = s.len.toNat) (hheld : HoldsBytes s 3 payload) :
    ∃ p, publishFrame s = .ok p ∧ Published s p (byteAt s 1) payload := by
  have hdecode := decodeChannels_of_holds hlen hpay hheld
  have hcount := decodeChannels_length hdecode
  have hstatus : memRead s 1 = .ok (byteAt s 1) := memRead_eq_ok.mpr ⟨by unfold Config.bufCap; omega, rfl⟩
  refine ⟨_, publishFrame_eq_ok.mpr ⟨_, _, hdecode, hstatus, rfl⟩, fun i => ?_, failsafe_eq_getLsbD _, rfl, ?_⟩
  · have hn : channelsDecoded s.cfg s.len = min (payload.length / 2) s.cfg.maxChannels := by rw [hpay]; rfl
    rw [← hn]
    split
    · rename_i hi
      rw [List.getElem?_append_left (by omega), rawValues_getElem?, channelOf_take (by omega)]
    · rename_i hi
      rw [List.getElem?_append_right (by omega), List.getElem?_drop, hcount]
      congr 1
      omega
  · rw [← failsafe_eq_getLsbD]
    rfl

/-- PUBLISH reads the configuration, the length, the channel array and the frame's bytes up to its payload's end, so
where those are the same it publishes the same. -/
theorem publishFrame_congr {s m p : State} (hcfg : m.cfg = s.cfg) (hlen : m.len = s.len) (hch : m.ch = s.ch)
    (hbytes : ∀ a, a < 3 + s.len.toNat → byteAt m a = byteAt s a) (h : publishFrame s = .ok p) :
    publishFrame m = .ok { m with ch := p.ch, fs := p.fs, valid := p.valid, pub := p.pub } := by
  obtain ⟨us, status, hus, hstatus, rfl⟩ := publishFrame_eq_ok.mp h
  obtain ⟨bytes, hread, rfl⟩ := decodeChannels_eq_ok.mp hus
  obtain ⟨hcount, hroom, hheld⟩ := readBytes_eq_ok.mp hread
  obtain ⟨hlt, hat⟩ := memRead_eq_ok.mp hstatus
  have hn : bytes.length ≤ s.len.toNat := by
    unfold channelsDecoded at hcount
    omega
  refine publishFrame_eq_ok.mpr ⟨_, status, decodeChannels_eq_ok.mpr ⟨bytes, readBytes_eq_ok.mpr ?_, rfl⟩,
    memRead_eq_ok.mpr ⟨hcfg ▸ hlt, (hbytes 1 (by omega)).trans hat⟩, by rw [hch]⟩
  rw [hcfg, hlen]
  exact ⟨hcount, hroom, hheld.congr fun x _ hx => hbytes x (by omega)⟩

/-- PUBLISH keeps the size of the channel array. -/
theorem publishFrame_ch_length {s p : State} (h : publishFrame s = .ok p) (hch : s.ch.length = s.cfg.maxChannels) :
    p.ch.length = s.cfg.maxChannels := by
  obtain ⟨us, status, hus, -, rfl⟩ := publishFrame_eq_ok.mp h
  have hcount := decodeChannels_length hus
  unfold channelsDecoded at hcount
  simp only [List.length_append, List.length_drop]
  omega

/-- Settles O38: `publishFrame_of_holds` for what PUBLISH writes, `publishFrame_frame` for what it leaves. -/
theorem publishUpdatesTheSnapshot : Obligations.PublishUpdatesTheSnapshot := by
  rintro s status payload hb hlen hpay rfl hheld
  obtain ⟨p, hp, hpublished⟩ := publishFrame_of_holds hlen hpay hheld
  obtain ⟨hframe, hcounters, hsetting, hout, -⟩ := publishFrame_frame hp
  exact ⟨p, exec_publish_eq_next.mpr ⟨hb, hp⟩, hpublished, hframe, hcounters, hsetting, hout⟩

end Sys2Proof.Machine
end

section
/-! The case rows and their operation (`30_encoding.md` rule R76): a row that applies does what its operation does, and
a row that does not is refused. -/

namespace Sys2Proof.Machine

/-! ## Which row applies -/

/-- `j` is a case row of the operation `w` (the first index), and it applies in `s`. -/
inductive RowOf (s : State) : Instr → Instr → Prop
  | sync {t : Nat} (hs : s.state = .awaitingSync) : RowOf s (.byte syncByte t) (.byteSync t)
  | drop {b : Byte} {t : Nat} (hs : s.state = .awaitingSync) (hb : b ≠ syncByte) : RowOf s (.byte b t) (.byteDrop b t)
  | status {b : Byte} {t : Nat} (hs : s.state = .readingStatus) : RowOf s (.byte b t) (.byteStatus b t)
  | oversize {b : Byte} {t : Nat} (hs : s.state = .readingLength) (hbad : s.cfg.maxPayload < b.toNat) :
    RowOf s (.byte b t) (.byteLenBad b t)
  | length {b : Byte} {t : Nat} (hs : s.state = .readingLength) (hpos : 1 ≤ b.toNat) (hle : b.toNat ≤ s.cfg.maxPayload) :
    RowOf s (.byte b t) (.byteLen b t)
  | zeroLength {t : Nat} (hs : s.state = .readingLength) : RowOf s (.byte 0#8 t) (.byteLen0 t)
  | payload {b : Byte} {t : Nat} (hs : s.state = .readingPayload) : RowOf s (.byte b t) (.bytePay b t)
  | checksumHigh {b : Byte} {t : Nat} (hs : s.state = .readingChecksum) (hidx : s.idx = 3 + s.len.toNat) :
    RowOf s (.byte b t) (.byteCkHi b t)
  | checksumLow {b : Byte} {t : Nat} (hs : s.state = .readingChecksum) (hidx : s.idx = 4 + s.len.toNat) :
    RowOf s (.byte b t) (.byteCkLo b t)
  | report {now : Nat} (hp : s.pub ≠ .nothingNew) : RowOf s (.poll now) (.pollReport now)
  | staleAbort {now : Nat} (hp : s.pub = .nothingNew) (hs : s.state ≠ .awaitingSync) (hstale : stale s now = true) :
    RowOf s (.poll now) (.pollStale now)
  | idle {now : Nat} (hp : s.pub = .nothingNew) (hidle : s.state = .awaitingSync ∨ stale s now = false) :
    RowOf s (.poll now) (.pollIdle now)
  | readOk {k : Byte} (hk : k.toNat < s.cfg.maxChannels) : RowOf s (.read k) (.readOk k)
  | readBad {k : Byte} (hk : s.cfg.maxChannels ≤ k.toNat) : RowOf s (.read k) (.readBad k)

theorem RowOf.isCase {s : State} {w j : Instr} (h : RowOf s w j) : j.isCase = true := by
  cases h <;> rfl

theorem RowOf.presented {s : State} {w j : Instr} (h : RowOf s w j) : j.presented = some w := by
  cases h <;> rfl

theorem RowOf.applies {s : State} {w j : Instr} (h : RowOf s w j) : rowApplies j s = true := by
  cases h with
  | sync hs | status hs | zeroLength hs | payload hs => exact decide_eq_true hs
  | drop hs hb => exact decide_eq_true ⟨hs, hb⟩
  | oversize hs hbad => exact decide_eq_true ⟨hs, hbad⟩
  | length hs hpos hle => exact decide_eq_true ⟨hs, hpos, hle⟩
  | checksumHigh hs hidx | checksumLow hs hidx => exact decide_eq_true ⟨hs, hidx⟩
  | report hp => exact decide_eq_true hp
  | staleAbort hp hs hstale => exact decide_eq_true ⟨hp, hs, hstale⟩
  | idle hp hidle => exact decide_eq_true ⟨hp, hidle⟩
  | readOk hk | readBad hk => exact decide_eq_true hk

/-- The condition of each row, read off `rowApplies`. -/
theorem rowOf_of_applies {s : State} {w j : Instr} (hcase : j.isCase = true) (hw : j.presented = some w)
    (happlies : rowApplies j s = true) : RowOf s w j := by
  cases j with
  | byte | poll | read | init | crc16Step | publish => cases hcase
  | byteSync t => exact Option.some.inj hw ▸ .sync (of_decide_eq_true happlies)
  | byteDrop b t => exact Option.some.inj hw ▸ (of_decide_eq_true happlies).elim .drop
  | byteStatus b t => exact Option.some.inj hw ▸ .status (of_decide_eq_true happlies)
  | byteLenBad b t => exact Option.some.inj hw ▸ (of_decide_eq_true happlies).elim .oversize
  | byteLen b t => exact Option.some.inj hw ▸ (of_decide_eq_true happlies).elim fun hs h => h.elim (.length hs)
  | byteLen0 t => exact Option.some.inj hw ▸ .zeroLength (of_decide_eq_true happlies)
  | bytePay b t => exact Option.some.inj hw ▸ .payload (of_decide_eq_true happlies)
  | byteCkHi b t => exact Option.some.inj hw ▸ (of_decide_eq_true happlies).elim .checksumHigh
  | byteCkLo b t => exact Option.some.inj hw ▸ (of_decide_eq_true happlies).elim .checksumLow
  | pollReport now => exact Option.some.inj hw ▸ .report (of_decide_eq_true happlies)
  | pollStale now => exact Option.some.inj hw ▸ (of_decide_eq_true happlies).elim fun hp h => h.elim (.staleAbort hp)
  | pollIdle now => exact Option.some.inj hw ▸ (of_decide_eq_true happlies).elim .idle
  | readOk k => exact Option.some.inj hw ▸ .readOk (of_decide_eq_true happlies)
  | readBad k => exact Option.some.inj hw ▸ .readBad (of_decide_eq_true happlies)

/-! ## The row and its operation -/

/-- A case row is its body under the guards of R231 and R76. -/
theorem exec_case {i : Instr} (hi : i.isCase = true) (s : State) : ∃ k, exec i s = whenRow i s k := by
  cases i with
  | byte | poll | read | init | crc16Step | publish => cases hi
  | byteSync | byteDrop | byteStatus | byteLenBad | byteLen | byteLen0 | bytePay | byteCkHi | byteCkLo => exact ⟨_, rfl⟩
  | pollReport | pollStale | pollIdle | readOk | readBad => exact ⟨_, rfl⟩

/-- Operations that go on in the same way from the state with the byte stored are the same. -/
theorem accept_bind_congr {s : State} {b : Byte} {t : Nat} {f g : State → Except Fault State}
    (h : f (stored s b t) = g (stored s b t)) : (accept s b t >>= f) = (accept s b t >>= g) := by
  by_cases hroom : s.idx < s.cfg.bufCap
  · rw [accept_of_lt b t hroom, ok_bind, ok_bind, h]
  · rw [accept_of_full b t hroom]
    rfl

theorem exec_byte_of_booted {s : State} (b : Byte) (t : Nat) (hb : s.booted = true) :
    exec (.byte b t) s = conclude (byteOp s b t) :=
  whenBooted_of_booted hb

/-- R76, R170, R177: a case row that applies does what its operation does. -/
theorem RowOf.exec_eq {s : State} {w j : Instr} (h : RowOf s w j) (hb : s.booted = true) : exec j s = exec w s := by
  have happlies := h.applies
  cases h with
  | sync hs =>
    rw [exec_byteSync_of_awaiting _ hb hs, exec_byte_of_booted _ _ hb, byteOp_sync hs]
    rfl
  | drop hs hne =>
    rw [exec_byte_of_booted _ _ hb, byteOp_drop hs hne]
    exact whenRow_of_applies hb happlies
  | status hs | payload hs =>
    refine (whenRow_of_applies hb happlies).trans ?_
    simp only [exec_byte_of_booted _ _ hb, byteOp, hs]
  | oversize hs hbad =>
    refine (whenRow_of_applies hb happlies).trans ?_
    simp only [exec_byte_of_booted _ _ hb, byteOp, hs]
    exact congrArg conclude (accept_bind_congr (by simp [byteLength, hbad]))
  | @length b t hs hpos hle =>
    have hne : b ≠ 0#8 := by rintro rfl; simp at hpos
    refine (whenRow_of_applies hb happlies).trans ?_
    simp only [exec_byte_of_booted _ _ hb, byteOp, hs]
    exact congrArg conclude (accept_bind_congr (by simp [byteLength, hne, Nat.not_lt.mpr hle]))
  | zeroLength hs =>
    refine (whenRow_of_applies hb happlies).trans ?_
    simp only [exec_byte_of_booted _ _ hb, byteOp, hs]
    exact congrArg conclude (accept_bind_congr (by simp [byteLength]))
  | checksumHigh hs hidx =>
    have hmore : ¬ s.idx + 1 = 5 + s.len.toNat := by omega
    refine (whenRow_of_applies hb happlies).trans ?_
    simp only [exec_byte_of_booted _ _ hb, byteOp, hs]
    exact congrArg conclude (accept_bind_congr (by simp [hmore]))
  | checksumLow hs hidx =>
    have hlast : s.idx + 1 = 5 + s.len.toNat := by omega
    refine (whenRow_of_applies hb happlies).trans ?_
    simp only [exec_byte_of_booted _ _ hb, byteOp, hs]
    exact congrArg conclude (accept_bind_congr (by simp [hlast]))
  | report hp =>
    rw [exec_poll_of_booted hb (pollOp_of_pub hp)]
    exact whenRow_of_applies hb happlies
  | staleAbort hp hs hstale =>
    rw [exec_poll_of_booted hb (pollOp_of_stale hp hs hstale)]
    exact whenRow_of_applies hb happlies
  | idle hp hidle =>
    rw [exec_poll_of_booted hb (pollOp_of_idle hp hidle)]
    exact whenRow_of_applies hb happlies
  | readOk hk =>
    refine (whenRow_of_applies hb happlies).trans ?_
    simp only [exec, execRead, whenBooted_of_booted hb, readOp, if_neg (Nat.not_le.mpr hk)]
  | readBad hk =>
    refine (whenRow_of_applies hb happlies).trans ?_
    simp only [exec, execRead, whenBooted_of_booted hb, readOp, if_pos hk, conclude]

/-- What a row answers, the operation whose word it shares answers. -/
theorem exec_presented_of_next {i w : Instr} {s s' : State} (hw : i.presented = some w) (h : exec i s = .next s') :
    exec w s = .next s' := by
  cases hcase : i.isCase with
  | false => exact presented_of_not_case hcase hw ▸ h
  | true =>
    obtain ⟨k, hk⟩ := exec_case hcase s
    obtain ⟨hb, happlies, -⟩ := whenRow_eq_next.mp (hk.symm.trans h)
    exact (rowOf_of_applies hcase hw happlies).exec_eq hb ▸ h

/-- A case row that does not apply is refused. -/
theorem exec_row_of_not_applies {i : Instr} {s : State} (hb : s.booted = true) (hi : i.isCase = true)
    (h : rowApplies i s = false) : exec i s = .refused .rowNotSelected := by
  obtain ⟨k, hk⟩ := exec_case hi s
  exact hk.trans (whenRow_of_not_applies hb h)

/-- Settles O20: in each state the row's condition holds, so the row does what BYTE does. -/
theorem byteAgreesWithItsCases : Obligations.ByteAgreesWithItsCases := by
  intro s b t hb
  have hrow : ∀ {j : Instr}, RowOf s (.byte b t) j → exec (.byte b t) s = exec j s := fun h => (h.exec_eq hb).symm
  refine ⟨?sync, ?drop, ?status, ?oversize, ?length, ?zeroLength, ?payload, ?checksumHigh, ?checksumLow⟩
  case sync =>
    rintro hs rfl
    exact hrow (.sync hs)
  case drop => exact fun hs hne => hrow (.drop hs hne)
  case status => exact fun hs => hrow (.status hs)
  case oversize => exact fun hs hbad => hrow (.oversize hs hbad)
  case length => exact fun hs hpos hle => hrow (.length hs hpos hle)
  case zeroLength =>
    rintro hs rfl
    exact hrow (.zeroLength hs)
  case payload => exact fun hs => hrow (.payload hs)
  case checksumHigh => exact fun hs hidx => hrow (.checksumHigh hs hidx)
  case checksumLow => exact fun hs hidx => hrow (.checksumLow hs hidx)

end Sys2Proof.Machine
end

section
/-! Everything BYTE can do, as a relation with one case for each row or outcome of a row (`41_frame_assembler.md` rules
R120 to R130). Every later claim about BYTE is a case analysis of it. -/

namespace Sys2Proof.Machine

/-- The state after a length byte above `MAX_PAYLOAD` (R123). -/
def lengthRefused (s : State) (b : Byte) (t : Nat) : State :=
  respond (resync { stored s b t with len := b, lenErr := countOne s.lenErr }) (.byte .lenOversize)

/-- The state after any other length byte (R124, R125). -/
def lengthAccepted (s : State) (b : Byte) (t : Nat) : State :=
  respond { stored s b t with len := b, state := if b = 0#8 then .readingChecksum else .readingPayload } (.byte .none)

theorem byteLength_stored (s : State) (b : Byte) (t : Nat) :
    byteLength (stored s b t) b = if s.cfg.maxPayload < b.toNat then lengthRefused s b t else lengthAccepted s b t := by
  by_cases hbad : s.cfg.maxPayload < b.toNat
  · simp [byteLength, hbad, lengthRefused]
  · by_cases hzero : b = 0#8 <;> simp [byteLength, hbad, hzero, lengthAccepted]

/-- The completion (R128): the buffer holds the frame's body and the checksum's high byte `hi`, and `b` is the low byte.
-/
structure Completes (s : State) (body : List Byte) (hi : Byte) : Prop where
  state : s.state = .readingChecksum
  idx : s.idx = 4 + s.len.toNat
  room : s.idx < s.cfg.bufCap
  length : body.length = 3 + s.len.toNat
  held : HoldsBytes s 0 (body ++ [hi])

/-- BYTE with `b` at time `t` takes `s` to the state in the index. -/
inductive ByteStep (s : State) (b : Byte) (t : Nat) : State → Prop
  | drop (hs : s.state = .awaitingSync) (hb : b ≠ syncByte) : ByteStep s b t (respond s (.byte .syncMiss))
  | sync (hs : s.state = .awaitingSync) (hb : b = syncByte) : ByteStep s b t (advanced (clearFrame s) b t .readingStatus)
  | status (hs : s.state = .readingStatus) (room : s.idx < s.cfg.bufCap) : ByteStep s b t (advanced s b t .readingLength)
  | oversize (hs : s.state = .readingLength) (room : s.idx < s.cfg.bufCap) (hlen : s.cfg.maxPayload < b.toNat) :
    ByteStep s b t (lengthRefused s b t)
  | length (hs : s.state = .readingLength) (room : s.idx < s.cfg.bufCap) (hlen : b.toNat ≤ s.cfg.maxPayload) :
    ByteStep s b t (lengthAccepted s b t)
  | payload (hs : s.state = .readingPayload) (room : s.idx < s.cfg.bufCap) :
    ByteStep s b t (advanced s b t (if s.idx + 1 = 3 + s.len.toNat then .readingChecksum else .readingPayload))
  | checksumHigh (hs : s.state = .readingChecksum) (room : s.idx < s.cfg.bufCap) (hidx : s.idx ≠ 4 + s.len.toNat) :
    ByteStep s b t (advanced s b t .readingChecksum)
  | publish {body : List Byte} {hi : Byte} {p : State} (hc : Completes s body hi) (hcrc : crc16 body = hi ++ b)
    (hp : publishFrame (resync (stored s b t)) = .ok p) : ByteStep s b t (respond p (.byte .frameOk))
  | discard {body : List Byte} {hi : Byte} (hc : Completes s body hi) (hcrc : crc16 body ≠ hi ++ b) :
    ByteStep s b t (respond (mismatch (resync (stored s b t))) (.byte .crcMismatch))

/-- With the last byte stored, the frame that the completion reads is the one that `Completes` tells of. -/
theorem frameRead_stored_iff {s : State} {b lo hi : Byte} {t : Nat} {body : List Byte} (hs : s.state = .readingChecksum)
    (hidx : s.idx = 4 + s.len.toNat) (room : s.idx < s.cfg.bufCap) :
    FrameRead (stored s b t) body hi lo ↔ Completes s body hi ∧ b = lo := by
  have hroom : 3 + s.len.toNat ≤ s.cfg.bufCap := by omega
  have hat : byteAt (stored s b t) (3 + s.len.toNat) = byteAt s (3 + s.len.toNat) :=
    byteAt_stored_other s b t (by omega)
  constructor
  · rintro ⟨hhi, hlo, hbody⟩
    obtain ⟨-, hhi⟩ := memRead_eq_ok.mp hhi
    obtain ⟨-, hlo⟩ := memRead_eq_ok.mp hlo
    obtain ⟨hlen, -, hheld⟩ := readBytes_eq_ok.mp hbody
    rw [stored_len] at hhi hlo hlen
    rw [holdsBytes_stored (by omega)] at hheld
    rw [← hidx, byteAt_stored_same] at hlo
    refine ⟨⟨hs, hidx, room, hlen, holdsBytes_append.mpr ⟨hheld, holdsBytes_singleton.mpr ?_⟩⟩, hlo⟩
    rwa [Nat.zero_add, hlen, ← hat]
  · rintro ⟨⟨-, -, -, hlen, hheld⟩, rfl⟩
    obtain ⟨hbody, hhi⟩ := holdsBytes_append.mp hheld
    rw [holdsBytes_singleton, Nat.zero_add, hlen, ← hat] at hhi
    refine ⟨memRead_eq_ok.mpr ⟨?_, hhi⟩, memRead_eq_ok.mpr ⟨?_, ?_⟩, readBytes_eq_ok.mpr ⟨hlen, fun _ => ?_, ?_⟩⟩
    · show 3 + s.len.toNat < s.cfg.bufCap
      omega
    · show 4 + s.len.toNat < s.cfg.bufCap
      omega
    · rw [stored_len, ← hidx, byteAt_stored_same]
    · rw [Nat.zero_add]
      exact hroom
    · exact (holdsBytes_stored (by omega)).mpr hbody

/-- A completion that answers a state publishes or discards. -/
theorem byteStep_of_complete {s s' : State} {b : Byte} {t : Nat} (hs : s.state = .readingChecksum)
    (hidx : s.idx = 4 + s.len.toNat) (room : s.idx < s.cfg.bufCap) (h : complete (stored s b t) = .ok s') :
    ByteStep s b t s' := by
  obtain ⟨body, hi, lo, hread, hout⟩ := complete_eq_ok.mp h
  obtain ⟨hc, rfl⟩ := (frameRead_stored_iff hs hidx room).mp hread
  rcases hout with ⟨hcrc, p, hp, rfl⟩ | ⟨hcrc, rfl⟩
  · exact .publish hc hcrc hp
  · exact .discard hc hcrc

/-- What BYTE answers is what `ByteStep` says, and the other way round. -/
theorem byteOp_eq_ok_iff {s s' : State} {b : Byte} {t : Nat} : byteOp s b t = .ok s' ↔ ByteStep s b t s' := by
  constructor
  · intro h
    rcases byteOp_eq_ok h with ⟨hs, hb, rfl⟩ | ⟨hs, hb, rfl⟩ | ⟨room, h⟩
    · exact .drop hs hb
    · exact .sync hs hb
    · rcases h with ⟨hs, rfl⟩ | ⟨hs, hbad, rfl⟩ | ⟨hs, hok, rfl, rfl⟩ | ⟨hs, hok, hb, rfl⟩ | ⟨hs, hlast, rfl⟩ |
        ⟨hs, hmore, rfl⟩ | ⟨hs, hidx, rfl⟩ | ⟨hs, hidx, h⟩
      · exact .status hs room
      · exact .oversize hs room hbad
      · exact .length hs room (Nat.not_lt.mp hok)
      · have hstep := ByteStep.length (t := t) hs room (Nat.not_lt.mp hok)
        rwa [lengthAccepted, if_neg hb] at hstep
      · have hstep := ByteStep.payload (b := b) (t := t) hs room
        rwa [if_pos hlast] at hstep
      · have hstep := ByteStep.payload (b := b) (t := t) hs room
        rw [if_neg hmore, ← hs] at hstep
        exact hstep
      · have hstep := ByteStep.checksumHigh (b := b) (t := t) hs room hidx
        rw [← hs] at hstep
        exact hstep
      · exact byteStep_of_complete hs hidx room h
  · intro h
    cases h with
    | drop hs hb => exact byteOp_drop hs hb
    | sync hs hb =>
      subst hb
      exact byteOp_sync hs
    | status hs room => exact byteOp_status hs room
    | oversize hs room hlen => rw [byteOp_length hs room, byteLength_stored, if_pos hlen]
    | length hs room hlen => rw [byteOp_length hs room, byteLength_stored, if_neg (Nat.not_lt.mpr hlen)]
    | payload hs room => rw [byteOp_payload hs room, bytePayload_stored, hs]
    | checksumHigh hs room hidx =>
      rw [byteOp_checksumHigh hs hidx room, ← hs]
      rfl
    | publish hc hcrc hp =>
      rw [byteOp_checksumLow hc.state hc.idx hc.room]
      exact complete_eq_ok.mpr ⟨_, _, _, (frameRead_stored_iff hc.state hc.idx hc.room).mpr ⟨hc, rfl⟩,
        .inl ⟨hcrc, _, hp, rfl⟩⟩
    | discard hc hcrc =>
      rw [byteOp_checksumLow hc.state hc.idx hc.room]
      exact complete_eq_ok.mpr ⟨_, _, _, (frameRead_stored_iff hc.state hc.idx hc.room).mpr ⟨hc, rfl⟩,
        .inr ⟨hcrc, rfl⟩⟩

theorem exec_byte_eq_next_iff {s s' : State} {b : Byte} {t : Nat} :
    exec (.byte b t) s = .next s' ↔ s.booted = true ∧ ByteStep s b t s' := by
  rw [exec_byte_eq_next, byteOp_eq_ok_iff]

/-! ## The completion -/

/-- The frame that a completion compares is the one in the buffer, so there is one. -/
theorem Completes.unique {s : State} {body body' : List Byte} {hi hi' : Byte} (h : Completes s body hi)
    (hlen : body'.length = 3 + s.len.toNat) (hheld : HoldsBytes s 0 (body' ++ [hi'])) : body' = body ∧ hi' = hi := by
  have heq := hheld.unique h.held (by simp [hlen, h.length])
  obtain ⟨hbody, hhi⟩ := List.append_inj heq (hlen.trans h.length.symm)
  exact ⟨hbody, List.singleton_inj.mp hhi⟩

theorem exists_completes {s : State} (hs : s.state = .readingChecksum) (hidx : s.idx = 4 + s.len.toNat)
    (room : s.idx < s.cfg.bufCap) : ∃ body hi, Completes s body hi := by
  obtain ⟨body, hlen, hbody⟩ := exists_holdsBytes s 0 (3 + s.len.toNat)
  exact ⟨body, byteAt s (3 + s.len.toNat), hs, hidx, room, hlen,
    holdsBytes_append.mpr ⟨hbody, holdsBytes_singleton.mpr (by rw [hlen, Nat.zero_add])⟩⟩

/-- PUBLISH at a completion: the status and payload that it publishes are those that the buffer held before the last
byte was stored. -/
theorem Completes.publishes {s : State} {b hi : Byte} {t : Nat} {body : List Byte} (hc : Completes s body hi)
    {payload : List Byte} (hpay : payload.length = s.len.toNat) (hheld : HoldsBytes s 3 payload) :
    ∃ p, publishFrame (resync (stored s b t)) = .ok p ∧ Published s p (byteAt s 1) payload := by
  have hidx := hc.idx
  have hroom := hc.room
  unfold Config.bufCap at hroom
  have hstored : HoldsBytes (stored s b t) 3 payload := (holdsBytes_stored (by omega)).mpr hheld
  have hstatus : byteAt (stored s b t) 1 = byteAt s 1 := byteAt_stored_other s b t (by omega)
  obtain ⟨p, hp, hpublished⟩ :=
    publishFrame_of_holds (s := resync (stored s b t)) (by simp only [resync_len, stored_len, resync_cfg, stored_cfg]; omega)
      hpay hstored
  rw [byteAt_resync, hstatus] at hpublished
  exact ⟨p, hp, hpublished⟩

/-- Where the buffer has room for the last byte, BYTE completes the frame one way or the other. -/
theorem exists_byteStep_of_completes {s : State} {body : List Byte} {hi : Byte} (b : Byte) (t : Nat)
    (hc : Completes s body hi) : ∃ s', ByteStep s b t s' := by
  by_cases hcrc : crc16 body = hi ++ b
  · obtain ⟨payload, hpay, hheld⟩ := exists_holdsBytes s 3 s.len.toNat
    obtain ⟨p, hp, -⟩ := hc.publishes (b := b) (t := t) hpay hheld
    exact ⟨_, .publish hc hcrc hp⟩
  · exact ⟨_, .discard hc hcrc⟩

/-- BYTE completes in `AwaitingSync`, and wherever the buffer has room for its byte. -/
theorem exists_byteStep {s : State} (b : Byte) (t : Nat) (h : s.state ≠ .awaitingSync → s.idx < s.cfg.bufCap) :
    ∃ s', ByteStep s b t s' := by
  cases hs : s.state with
  | awaitingSync =>
    by_cases hb : b = syncByte
    · exact ⟨_, .sync hs hb⟩
    · exact ⟨_, .drop hs hb⟩
  | readingStatus => exact ⟨_, .status hs (h (by simp [hs]))⟩
  | readingLength =>
    by_cases hlen : s.cfg.maxPayload < b.toNat
    · exact ⟨_, .oversize hs (h (by simp [hs])) hlen⟩
    · exact ⟨_, .length hs (h (by simp [hs])) (Nat.not_lt.mp hlen)⟩
  | readingPayload => exact ⟨_, .payload hs (h (by simp [hs]))⟩
  | readingChecksum =>
    have room : s.idx < s.cfg.bufCap := h (by simp [hs])
    by_cases hidx : s.idx = 4 + s.len.toNat
    · obtain ⟨body, hi, hc⟩ := exists_completes hs hidx room
      exact exists_byteStep_of_completes b t hc
    · exact ⟨_, .checksumHigh hs room hidx⟩

/-! ## What every case of BYTE leaves and returns -/

theorem ByteStep.sameSetting {s s' : State} {b : Byte} {t : Nat} (h : ByteStep s b t s') : SameSetting s s' := by
  cases h with
  | drop | sync | status | oversize | length | payload | checksumHigh | discard => exact ⟨rfl, rfl, rfl, rfl⟩
  | publish hc hcrc hp =>
    obtain ⟨-, -, hsetting, -, -⟩ := publishFrame_frame hp
    exact hsetting

/-- Every case but the publish leaves the snapshot and the publish state. -/
theorem ByteStep.sameSnapshot {s s' : State} {b : Byte} {t : Nat} (h : ByteStep s b t s')
    (hout : s'.out ≠ .byte .frameOk) : SameSnapshot s s' := by
  cases h with
  | drop | sync | status | oversize | length | payload | checksumHigh | discard => exact ⟨rfl, rfl, rfl, rfl⟩
  | publish => exact absurd rfl hout

theorem ByteStep.exists_evt {s s' : State} {b : Byte} {t : Nat} (h : ByteStep s b t s') : ∃ evt, s'.out = .byte evt := by
  cases h <;> exact ⟨_, rfl⟩

end Sys2Proof.Machine
end

section
/-! The invariants (`10_state.md` rules R20 and R38 to R40, `20_memory.md` rule R51): every instruction and every step
keeps them, and with them no step faults. -/

namespace Sys2Proof.Machine

/-! ## Everything an instruction can do -/

/-- What `exec` answers, by the effect on the state: a case of BYTE or POLL, a result alone (READ, CRC16.STEP), INIT, or
PUBLISH. -/
inductive OpStep (s : State) : State → Prop
  | byte {b : Byte} {t : Nat} {s' : State} (h : ByteStep s b t s') : OpStep s s'
  | report : OpStep s (reportStatus s)
  | abort : OpStep s (abortFrame s)
  | result (r : Result) : OpStep s (respond s r)
  | init (attached : Bool) : OpStep s (respond (applyReset s) (.init attached .none))
  | publish {p : State} (h : publishFrame s = .ok p) : OpStep s p

theorem opStep_pollOp (s : State) (now : Nat) : OpStep s (pollOp s now) := by
  rcases pollOp_cases s now with ⟨-, h⟩ | ⟨-, -, -, h⟩ | ⟨-, -, h⟩
  · exact h ▸ .report
  · exact h ▸ .abort
  · exact h ▸ .result _

theorem opStep_of_exec {i : Instr} {s s' : State} (h : exec i s = .next s') : OpStep s s' := by
  cases hi : i.presented with
  | some w =>
    have hw := exec_presented_of_next hi h
    rcases presented_cases hi with ⟨b, t, rfl⟩ | ⟨now, rfl⟩ | ⟨k, rfl⟩ | ⟨attached, rfl⟩
    · obtain ⟨-, hstep⟩ := exec_byte_eq_next_iff.mp hw
      exact .byte hstep
    · obtain ⟨-, rfl⟩ := exec_poll_eq_next.mp hw
      exact opStep_pollOp s now
    · obtain ⟨-, ⟨-, rfl⟩ | ⟨-, v, -, rfl⟩⟩ := exec_read_eq_next.mp hw
      · exact .result _
      · exact .result _
    · obtain rfl := exec_init_eq_next.mp hw
      exact .init attached
  | none =>
    cases i with
    | crc16Step acc b =>
      obtain rfl := exec_crc16Step_eq_next.mp h
      exact .result _
    | publish =>
      obtain ⟨-, hp⟩ := exec_publish_eq_next.mp h
      exact .publish hp
    | byte | byteSync | byteDrop | byteStatus | byteLenBad | byteLen | byteLen0 | bytePay | byteCkHi | byteCkLo => cases hi
    | poll | pollReport | pollStale | pollIdle | read | readOk | readBad | init => cases hi

/-- No instruction writes the configuration or what the agents have still to present (R36, R212). -/
theorem OpStep.cfg_env {s s' : State} (h : OpStep s s') : s'.cfg = s.cfg ∧ s'.env = s.env := by
  cases h with
  | byte h =>
    obtain ⟨hcfg, -, henv, -⟩ := h.sameSetting
    exact ⟨hcfg, henv⟩
  | report | abort | result | init => exact ⟨rfl, rfl⟩
  | publish h =>
    obtain ⟨-, -, ⟨hcfg, -, henv, -⟩, -, -⟩ := publishFrame_frame h
    exact ⟨hcfg, henv⟩

/-! ## The frame invariant in parts -/

/-- The part of the invariant that does not speak of the frame in progress: the ranges of R20. -/
structure State.InRange (s : State) : Prop where
  cfgValid : s.cfg.Valid
  bufWf : s.buf.wf
  bufInRange : ∀ p ∈ s.buf, p.1 < s.cfg.bufCap
  idxBound : s.idx ≤ s.cfg.bufCap
  lastTFits : s.lastT < s.cfg.timeSpan
  chSize : s.ch.length = s.cfg.maxChannels

/-- The position and the declared length in each decoder state (R38). -/
def State.Placed (s : State) : Prop :=
  match s.state with
  | .awaitingSync => True
  | .readingStatus => s.idx = 1
  | .readingLength => s.idx = 2
  | .readingPayload => (1 ≤ s.len.toNat ∧ s.len.toNat ≤ s.cfg.maxPayload ∧ 3 ≤ s.idx ∧ s.idx < 3 + s.len.toNat) ∧
    s.buf.read 2 = some s.len
  | .readingChecksum => (s.len.toNat ≤ s.cfg.maxPayload ∧ 3 + s.len.toNat ≤ s.idx ∧ s.idx < 5 + s.len.toNat) ∧
    s.buf.read 2 = some s.len

/-- The frame's bytes so far are stored, the sync byte first (R51). -/
def State.HasFrame (s : State) : Prop :=
  s.buf.read 0 = some syncByte ∧ ∀ a, a < s.idx → (s.buf.read a).isSome = true

theorem State.Inv.inRange {s : State} (h : s.Inv) : s.InRange := { h with }

theorem State.Inv.hasFrame {s : State} (h : s.Inv) (hs : s.state ≠ .awaitingSync) : s.HasFrame :=
  ⟨h.syncStored hs, h.written hs⟩

/-- The parts make the invariant. -/
theorem State.InRange.inv {s : State} (hr : s.InRange) (hp : s.Placed) (hf : s.state ≠ .awaitingSync → s.HasFrame) :
    s.Inv := by
  unfold State.Placed at hp
  refine { hr with
    atStatus := fun hs => ?_, atLength := fun hs => ?_, atPayload := fun hs => ?_, atChecksum := fun hs => ?_
    syncStored := fun hs => (hf hs).1, lenStored := fun hs => ?_, written := fun hs => (hf hs).2 }
  · simpa only [hs] using hp
  · simpa only [hs] using hp
  · rw [hs] at hp
    exact hp.1
  · rw [hs] at hp
    exact hp.1
  · rcases hs with hs | hs
    · rw [hs] at hp
      exact hp.2
    · rw [hs] at hp
      exact hp.2

/-- Between frames nothing is said of the frame. -/
theorem State.InRange.inv_of_awaiting {s : State} (hr : s.InRange) (hs : s.state = .awaitingSync) : s.Inv :=
  hr.inv (by simp only [State.Placed, hs]) fun h => absurd hs h

/-- The invariant does not speak of the status, the counters, the result or the inputs. -/
theorem State.Inv.congr {s s' : State} (h : s.Inv) (hcfg : s'.cfg = s.cfg) (hstate : s'.state = s.state)
    (hbuf : s'.buf = s.buf) (hidx : s'.idx = s.idx) (hlen : s'.len = s.len) (ht : s'.lastT = s.lastT)
    (hch : s'.ch.length = s.ch.length) : s'.Inv := by
  constructor <;> simp only [hcfg, hstate, hbuf, hidx, hlen, ht, hch]
  exacts [h.cfgValid, h.bufWf, h.bufInRange, h.idxBound, h.lastTFits, h.chSize, h.atStatus, h.atLength, h.atPayload,
    h.atChecksum, h.syncStored, h.lenStored, h.written]

/-! ## Room for the next byte -/

/-- Inside a frame the position is past the sync byte and inside the buffer (R38). -/
theorem State.Inv.position {s : State} (h : s.Inv) (hs : s.state ≠ .awaitingSync) : 0 < s.idx ∧ s.idx < s.cfg.bufCap := by
  unfold Config.bufCap
  cases hstate : s.state with
  | awaitingSync => exact absurd hstate hs
  | readingStatus =>
    have := h.atStatus hstate
    omega
  | readingLength =>
    have := h.atLength hstate
    omega
  | readingPayload =>
    have := h.atPayload hstate
    omega
  | readingChecksum =>
    have := h.atChecksum hstate
    omega

theorem State.Inv.room {s : State} (h : s.Inv) (hs : s.state ≠ .awaitingSync) : s.idx < s.cfg.bufCap := (h.position hs).2

theorem State.Inv.idx_pos {s : State} (h : s.Inv) (hs : s.state ≠ .awaitingSync) : 0 < s.idx := (h.position hs).1

/-! ## Storing a byte -/

theorem State.InRange.clearFrame {s : State} (h : s.InRange) : (clearFrame s).InRange :=
  { h with idxBound := Nat.zero_le _ }

theorem State.InRange.after_store {s : State} (h : s.InRange) (room : s.idx < s.cfg.bufCap) (b : Byte) (t : Nat) :
    (stored s b t).InRange where
  cfgValid := h.cfgValid
  bufWf := Memory.write_wf h.bufWf _ _
  bufInRange := by
    intro p hp
    rcases Memory.mem_write hp with rfl | hp
    · exact room
    · exact h.bufInRange p hp
  idxBound := room
  lastTFits := Nat.mod_lt _ (Nat.two_pow_pos _)
  chSize := h.chSize

/-- The first byte of a frame is the sync byte. -/
theorem hasFrame_sync (s : State) (t : Nat) : (stored (clearFrame s) syncByte t).HasFrame := by
  refine ⟨Memory.read_write_same _ _ _, fun a ha => ?_⟩
  obtain rfl : a = 0 := Nat.lt_one_iff.mp ha
  exact Option.isSome_iff_exists.mpr ⟨_, Memory.read_write_same _ _ _⟩

/-- A further byte leaves the sync byte where it is, and no gap. -/
theorem State.HasFrame.after_store {s : State} (h : s.HasFrame) (hpos : 0 < s.idx) (b : Byte) (t : Nat) :
    (stored s b t).HasFrame := by
  obtain ⟨hsync, hwritten⟩ := h
  refine ⟨(Memory.read_write_other _ _ (by omega)).trans hsync, fun a ha => ?_⟩
  rw [stored_buf, Memory.read_write]
  split
  · rfl
  · rw [stored_idx] at ha
    exact hwritten a (by omega)

/-! ## Every instruction keeps the frame invariant -/

/-- Inside a frame a byte is stored after the frame's bytes, so only the new position is left to check. -/
theorem State.Inv.after_store {s : State} (h : s.Inv) (hs : s.state ≠ .awaitingSync) {b : Byte} {t : Nat} {s' : State}
    (hcfg : s'.cfg = s.cfg) (hbuf : s'.buf = (stored s b t).buf) (hidx : s'.idx = s.idx + 1)
    (ht : s'.lastT = portTime s.cfg t) (hch : s'.ch = s.ch) (hp : s'.Placed) : s'.Inv := by
  have hr := h.inRange.after_store (h.room hs) b t
  have hf := (h.hasFrame hs).after_store (h.idx_pos hs) b t
  refine State.InRange.inv ?_ hp fun _ => ?_
  · constructor <;> simp only [hcfg, hbuf, hidx, ht, hch]
    exacts [hr.cfgValid, hr.bufWf, hr.bufInRange, hr.idxBound, hr.lastTFits, hr.chSize]
  · unfold State.HasFrame
    rw [hbuf, hidx]
    exact hf

theorem ByteStep.inv {s s' : State} {b : Byte} {t : Nat} (hstep : ByteStep s b t s') (h : s.Inv) : s'.Inv := by
  cases hstep with
  | drop => exact h.congr rfl rfl rfl rfl rfl rfl rfl
  | sync hs hb =>
    subst hb
    have hr := h.inRange.clearFrame.after_store (by simp [Config.bufCap]) syncByte t
    exact State.InRange.inv { hr with } rfl fun _ => hasFrame_sync s t
  | status hs room =>
    have hidx := h.atStatus hs
    exact h.after_store (by simp [hs]) rfl rfl rfl rfl rfl (congrArg (· + 1) hidx)
  | oversize hs room hlen => exact State.InRange.inv_of_awaiting { h.inRange.after_store room b t with } rfl
  | length hs room hlen =>
    have hidx := h.atLength hs
    have hread : (lengthAccepted s b t).buf.read 2 = some b := by
      rw [← hidx]
      exact Memory.read_write_same _ _ _
    refine h.after_store (by simp [hs]) rfl rfl rfl rfl rfl ?_
    have hidx' : (lengthAccepted s b t).idx = 3 := congrArg (· + 1) hidx
    by_cases hzero : b = 0#8
    · have hstate : (lengthAccepted s b t).state = .readingChecksum := if_pos hzero
      subst hzero
      simp only [State.Placed, hstate]
      have hlen' : (lengthAccepted s 0#8 t).len.toNat = 0 := rfl
      exact ⟨⟨hlen, by omega, by omega⟩, hread⟩
    · have hstate : (lengthAccepted s b t).state = .readingPayload := if_neg hzero
      have hpos : 1 ≤ b.toNat := Nat.pos_of_ne_zero fun h0 => hzero (BitVec.eq_of_toNat_eq h0)
      simp only [State.Placed, hstate]
      exact ⟨⟨hpos, hlen, by omega, by rw [hidx']; exact Nat.lt_add_of_pos_right hpos⟩, hread⟩
  | payload hs room =>
    obtain ⟨hpos, hlen, hge, hlt⟩ := h.atPayload hs
    have hread : (stored s b t).buf.read 2 = some s.len :=
      (Memory.read_write_other _ _ (by omega)).trans (h.lenStored (.inl hs))
    refine h.after_store (by simp [hs]) rfl rfl rfl rfl rfl ?_
    by_cases hlast : s.idx + 1 = 3 + s.len.toNat
    · rw [if_pos hlast]
      exact ⟨⟨hlen, Nat.le_of_eq hlast.symm, by show s.idx + 1 < 5 + s.len.toNat; omega⟩, hread⟩
    · rw [if_neg hlast]
      exact ⟨⟨hpos, hlen, Nat.le_succ_of_le hge, by show s.idx + 1 < 3 + s.len.toNat; omega⟩, hread⟩
  | checksumHigh hs room hidx =>
    obtain ⟨hlen, hge, hlt⟩ := h.atChecksum hs
    have hread : (stored s b t).buf.read 2 = some s.len :=
      (Memory.read_write_other _ _ (by omega)).trans (h.lenStored (.inr hs))
    refine h.after_store (by simp [hs]) rfl rfl rfl rfl rfl ?_
    exact ⟨⟨hlen, Nat.le_succ_of_le hge, by show s.idx + 1 < 5 + s.len.toNat; omega⟩, hread⟩
  | publish hc hcrc hp =>
    have hr := h.inRange.after_store hc.room b t
    have hch := publishFrame_ch_length hp hr.chSize
    have hm : (resync (stored s b t)).Inv := State.InRange.inv_of_awaiting { hr with } rfl
    obtain ⟨⟨hstate, hidx, hlen, ht, -⟩, -, ⟨hcfg, -⟩, -, hbuf⟩ := publishFrame_frame hp
    exact hm.congr hcfg hstate hbuf hidx hlen ht (hch.trans hr.chSize.symm)
  | discard hc hcrc => exact State.InRange.inv_of_awaiting { h.inRange.after_store hc.room b t with } rfl

theorem inRange_resetFor {c : Config} (hc : c.Valid) : (State.resetFor c).InRange where
  cfgValid := hc
  bufWf := List.Pairwise.nil
  bufInRange := nofun
  idxBound := Nat.zero_le _
  lastTFits := Nat.two_pow_pos _
  chSize := List.length_replicate

theorem inv_applyReset {s : State} (h : s.Inv) : (applyReset s).Inv :=
  State.InRange.inv_of_awaiting { inRange_resetFor h.cfgValid with } rfl

theorem OpStep.inv {s s' : State} (hstep : OpStep s s') (h : s.Inv) : s'.Inv := by
  cases hstep with
  | byte hb => exact hb.inv h
  | report | result => exact h.congr rfl rfl rfl rfl rfl rfl rfl
  | abort => exact State.InRange.inv_of_awaiting { h.inRange with } rfl
  | init => exact (inv_applyReset h).congr rfl rfl rfl rfl rfl rfl rfl
  | publish hp =>
    obtain ⟨⟨hstate, hidx, hlen, ht, -⟩, -, ⟨hcfg, -⟩, -, hbuf⟩ := publishFrame_frame hp
    exact h.congr hcfg hstate hbuf hidx hlen ht ((publishFrame_ch_length hp h.chSize).trans h.chSize.symm)

/-! ## Every instruction keeps the snapshot invariant -/

/-- The snapshot invariant speaks of the configuration, the snapshot and the publish state. -/
theorem State.SnapInv.congr {s s' : State} (h : s.SnapInv) (hcfg : s'.cfg = s.cfg) (hsnap : SameSnapshot s s') :
    s'.SnapInv := by
  obtain ⟨hch, hfs, hvalid, hpub⟩ := hsnap
  constructor <;> simp only [hcfg, hch, hfs, hvalid, hpub]
  exacts [h.reported, h.unpublished, h.range]

/-- A report that was given leaves nothing to report. -/
theorem State.SnapInv.reportStatus {s : State} (h : s.SnapInv) : (reportStatus s).SnapInv where
  reported := fun hp => absurd rfl hp
  unpublished := h.unpublished
  range := h.range

/-- A publish reports its own failsafe flag, and its channel values are decoded ones or were there before. -/
theorem State.SnapInv.publish {s p : State} (h : s.SnapInv) (hp : publishFrame s = .ok p) : p.SnapInv := by
  obtain ⟨us, status, hus, -, rfl⟩ := publishFrame_eq_ok.mp hp
  obtain ⟨bytes, -, rfl⟩ := decodeChannels_eq_ok.mp hus
  refine ⟨fun _ => ⟨rfl, rfl⟩, nofun, fun v hv => ?_⟩
  rcases List.mem_append.mp hv with hv | hv
  · obtain ⟨raw, -, rfl⟩ := List.mem_map.mp hv
    exact .inr (Nat.le_of_lt_succ (microseconds_toNat_lt raw))
  · exact h.range v (List.mem_of_mem_drop hv)

theorem ByteStep.snapInv {s s' : State} {b : Byte} {t : Nat} (hstep : ByteStep s b t s') (h : s.SnapInv) : s'.SnapInv := by
  by_cases hout : s'.out = .byte .frameOk
  · cases hstep with
    | publish hc hcrc hp =>
      have hm : (resync (stored s b t)).SnapInv := h.congr rfl ⟨rfl, rfl, rfl, rfl⟩
      exact (hm.publish hp).congr rfl ⟨rfl, rfl, rfl, rfl⟩
    | drop | sync | status | oversize | length | payload | checksumHigh | discard => cases hout
  · obtain ⟨hcfg, -⟩ := hstep.sameSetting
    exact h.congr hcfg (hstep.sameSnapshot hout)

theorem snapInv_resetFor (c : Config) : (State.resetFor c).SnapInv where
  reported := fun hp => absurd rfl hp
  unpublished := fun _ => ⟨rfl, fun _ hv => List.eq_of_mem_replicate hv⟩
  range := fun _ hv => .inl (List.eq_of_mem_replicate hv)

theorem snapInv_applyReset (s : State) : (applyReset s).SnapInv := (snapInv_resetFor s.cfg).congr rfl ⟨rfl, rfl, rfl, rfl⟩

theorem OpStep.snapInv {s s' : State} (hstep : OpStep s s') (h : s.SnapInv) : s'.SnapInv := by
  cases hstep with
  | byte hb => exact hb.snapInv h
  | report => exact h.reportStatus
  | abort | result => exact h.congr rfl ⟨rfl, rfl, rfl, rfl⟩
  | init => exact (snapInv_applyReset s).congr rfl ⟨rfl, rfl, rfl, rfl⟩
  | publish hp => exact h.publish hp

/-! ## Steps -/

/-- What every instruction keeps, and a reset, and the passing of a turn, every step keeps. -/
theorem step_keeps {P : State → Prop} (htaken : ∀ s, P s → P (taken s)) (hreset : ∀ s, P s → P (applyReset s))
    (hop : ∀ s s', OpStep s s' → P s → P s') {s s' : State} (hP : P s) (h : step s = .next s') : P s' := by
  rcases step_eq_next.mp h with ⟨-, rfl⟩ | ⟨-, rfl⟩ | ⟨r, i, -, -, hexec⟩
  · exact htaken s hP
  · exact hreset _ (htaken s hP)
  · exact hop _ _ (opStep_of_exec hexec) (htaken s hP)

theorem State.Inv.taken {s : State} (h : s.Inv) : (taken s).Inv := h.congr rfl rfl rfl rfl rfl rfl rfl

/-- With the invariant no operation that the environment presents faults: a byte has room, and a channel is there. -/
theorem exec_presented_ne_fault {i : Instr} {s : State} (h : s.Inv) (hi : i.presented = some i) (f : Fault) :
    exec i s ≠ .fault f := by
  have hguard : ∀ {k : Answer}, k ≠ .fault f → whenBooted s k ≠ .fault f := by
    intro k hk
    unfold whenBooted
    split
    · exact hk
    · nofun
  rcases presented_cases hi with ⟨b, t, rfl⟩ | ⟨now, rfl⟩ | ⟨k, rfl⟩ | ⟨attached, rfl⟩
  · obtain ⟨s', hstep⟩ := exists_byteStep b t h.room
    refine hguard ?_
    rw [byteOp_eq_ok_iff.mpr hstep]
    nofun
  · exact hguard nofun
  · refine hguard ?_
    unfold readOp
    split
    · nofun
    · have hk : k.toNat < s.ch.length := by
        rw [h.chSize]
        omega
      rw [readChannel_eq_ok.mpr ⟨_, List.getElem?_eq_getElem hk, rfl⟩]
      nofun
  · nofun

/-! ## The obligations -/

/-- Settles O14: `step_keeps` with `OpStep.inv` for the instructions. -/
theorem stepKeepsTheFrameInvariant : Obligations.StepKeepsTheFrameInvariant :=
  fun _ _ h hstep => step_keeps (fun _ h => h.taken) (fun _ h => inv_applyReset h) (fun _ _ hop h => hop.inv h) h hstep

/-- Settles O17: the step itself faults in no branch, and `exec_presented_ne_fault` says that the presented operation
does not. -/
theorem stepNeverFaults : Obligations.StepNeverFaults := by
  intro s h f hfault
  unfold step at hfault
  split at hfault
  · cases hfault
  · cases hfault
  · split at hfault
    · exact exec_presented_ne_fault h.taken (presented_of_decode ‹_›) f hfault
    · cases hfault

/-- Settles O15: `step_keeps` with `OpStep.snapInv` for the instructions. -/
theorem stepKeepsTheSnapshotInvariant : Obligations.StepKeepsTheSnapshotInvariant :=
  fun _ _ h hstep => step_keeps (fun _ h => h.congr rfl ⟨rfl, rfl, rfl, rfl⟩) (fun s _ => snapInv_applyReset s)
    (fun _ _ hop h => hop.snapInv h) h hstep

/-- Settles O16: whatever the row, its effect is one of `OpStep`. -/
theorem everyRowKeepsTheInvariants : Obligations.EveryRowKeepsTheInvariants :=
  fun _ _ _ h => ⟨(opStep_of_exec h).inv, (opStep_of_exec h).snapInv⟩

/-- The channel array is never resized (R28). -/
theorem OpStep.ch_length {s s' : State} (hstep : OpStep s s') (h : s.ch.length = s.cfg.maxChannels) :
    s'.ch.length = s'.cfg.maxChannels := by
  cases hstep with
  | byte hb =>
    cases hb with
    | drop | sync | status | oversize | length | payload | checksumHigh | discard => exact h
    | publish hc hcrc hp =>
      obtain ⟨-, -, ⟨hcfg, -⟩, -, -⟩ := publishFrame_frame hp
      exact (publishFrame_ch_length hp h).trans (congrArg Config.maxChannels hcfg.symm)
  | report | abort | result => exact h
  | init => exact List.length_replicate
  | publish hp =>
    obtain ⟨-, -, ⟨hcfg, -⟩, -, -⟩ := publishFrame_frame hp
    exact (publishFrame_ch_length hp h).trans (congrArg Config.maxChannels hcfg.symm)

/-- Settles O18: the configuration by `OpStep.cfg_env`, the size of the array by `OpStep.ch_length`. -/
theorem configurationIsReadOnly : Obligations.ConfigurationIsReadOnly := by
  intro s s' hstep
  constructor
  · exact step_keeps (P := fun m => m.cfg = s.cfg) (fun _ h => h) (fun _ h => h)
      (fun _ _ hop h => (hop.cfg_env).1.trans h) rfl hstep
  · exact fun hch => step_keeps (P := fun m => m.ch.length = m.cfg.maxChannels) (fun _ h => h)
      (fun _ _ => List.length_replicate) (fun _ _ hop h => hop.ch_length h) hch hstep

/-- Settles O13: `inRange_resetFor` and `snapInv_resetFor`. -/
theorem resetMeetsTheInvariants : Obligations.ResetMeetsTheInvariants :=
  fun c hc => ⟨(inRange_resetFor hc).inv_of_awaiting rfl, snapInv_resetFor c⟩

end Sys2Proof.Machine
end

section
/-! BYTE: that it completes, which row it is, what it stores, the completion, the diagnostic counters and the event
codes (`41_frame_assembler.md`, `30_encoding.md` rules R76 and R77, `10_state.md` rules R22, R32 and R40). -/

namespace Sys2Proof.Machine

/-! ## BYTE completes -/

/-- With the invariant, after the first reset, every operation the environment presents completes. -/
theorem exec_presented_completes {i : Instr} {s : State} (h : s.Inv) (hb : s.booted = true) (hi : i.presented = some i) :
    ∃ s', exec i s = .next s' := by
  cases he : exec i s with
  | next s' => exact ⟨s', rfl⟩
  | fault f => exact absurd he (exec_presented_ne_fault h hi f)
  | refused why =>
    obtain ⟨hfalse, -⟩ := exec_presented_eq_refused hi he
    rw [hb] at hfalse
    cases hfalse

/-- Settles O22: the invariant gives room for the byte, and no case of BYTE writes the setting. -/
theorem byteAlwaysCompletes : Obligations.ByteAlwaysCompletes := by
  intro s b t h hb
  obtain ⟨s', hstep⟩ := exists_byteStep b t h.room
  obtain ⟨evt, hout⟩ := hstep.exists_evt
  exact ⟨s', evt, exec_byte_eq_next_iff.mpr ⟨hb, hstep⟩, hout, hstep.sameSetting⟩

/-! ## The row that applies -/

/-- The case row that the state selects for an operation (R76, R170, R177). -/
def selectedRow (s : State) : Instr → Instr
  | .byte b t =>
    match s.state with
    | .awaitingSync => if b = syncByte then .byteSync t else .byteDrop b t
    | .readingStatus => .byteStatus b t
    | .readingLength =>
      if s.cfg.maxPayload < b.toNat then .byteLenBad b t else if b = 0#8 then .byteLen0 t else .byteLen b t
    | .readingPayload => .bytePay b t
    | .readingChecksum => if s.idx = 3 + s.len.toNat then .byteCkHi b t else .byteCkLo b t
  | .poll now =>
    if s.pub ≠ .nothingNew then .pollReport now
    else if s.state ≠ .awaitingSync ∧ stale s now then .pollStale now
    else .pollIdle now
  | .read k => if s.cfg.maxChannels ≤ k.toNat then .readBad k else .readOk k
  | i => i

theorem rowOf_selectedRow_byte {s : State} (h : s.Inv) (b : Byte) (t : Nat) :
    RowOf s (.byte b t) (selectedRow s (.byte b t)) := by
  cases hs : s.state with
  | awaitingSync =>
    by_cases hb : b = syncByte
    · subst hb
      simp only [selectedRow, hs]
      exact .sync hs
    · simp only [selectedRow, hs, if_neg hb]
      exact .drop hs hb
  | readingStatus =>
    simp only [selectedRow, hs]
    exact .status hs
  | readingLength =>
    by_cases hbad : s.cfg.maxPayload < b.toNat
    · simp only [selectedRow, hs, if_pos hbad]
      exact .oversize hs hbad
    · by_cases hzero : b = 0#8
      · subst hzero
        simp only [selectedRow, hs, if_neg hbad]
        exact .zeroLength hs
      · have hpos : 1 ≤ b.toNat := Nat.pos_of_ne_zero fun h0 => hzero (BitVec.eq_of_toNat_eq h0)
        simp only [selectedRow, hs, if_neg hbad, if_neg hzero]
        exact .length hs hpos (Nat.not_lt.mp hbad)
  | readingPayload =>
    simp only [selectedRow, hs]
    exact .payload hs
  | readingChecksum =>
    obtain ⟨-, hge, hlt⟩ := h.atChecksum hs
    by_cases hi : s.idx = 3 + s.len.toNat
    · simp only [selectedRow, hs, if_pos hi]
      exact .checksumHigh hs hi
    · simp only [selectedRow, hs, if_neg hi]
      exact .checksumLow hs (by omega)

theorem rowOf_selectedRow_poll (s : State) (now : Nat) : RowOf s (.poll now) (selectedRow s (.poll now)) := by
  by_cases hp : s.pub = .nothingNew
  · by_cases hstale : s.state ≠ .awaitingSync ∧ stale s now = true
    · simp only [selectedRow, if_neg (not_not_intro hp), if_pos hstale]
      exact .staleAbort hp hstale.1 hstale.2
    · simp only [selectedRow, if_neg (not_not_intro hp), if_neg hstale]
      refine .idle hp ?_
      by_cases hs : s.state = .awaitingSync
      · exact .inl hs
      · exact .inr (Bool.eq_false_iff.mpr fun h => hstale ⟨hs, h⟩)
  · simp only [selectedRow, if_pos hp]
    exact .report hp

theorem rowOf_selectedRow_read (s : State) (k : Byte) : RowOf s (.read k) (selectedRow s (.read k)) := by
  by_cases hk : s.cfg.maxChannels ≤ k.toNat
  · simp only [selectedRow, if_pos hk]
    exact .readBad hk
  · simp only [selectedRow, if_neg hk]
    exact .readOk (Nat.not_le.mp hk)

/-- A case row of an operation that applies is the selected one. -/
theorem RowOf.eq_selectedRow {s : State} {w j : Instr} (h : RowOf s w j) : j = selectedRow s w := by
  cases h with
  | sync hs | status hs | zeroLength hs | payload hs => simp [selectedRow, hs]
  | drop hs hb => simp [selectedRow, hs, hb]
  | oversize hs hbad => simp [selectedRow, hs, hbad]
  | @length b t hs hpos hle =>
    have hne : b ≠ 0#8 := by rintro rfl; simp at hpos
    simp [selectedRow, hs, hne, Nat.not_lt.mpr hle]
  | checksumHigh hs hidx | checksumLow hs hidx => simp [selectedRow, hs, hidx]
  | report hp => simp [selectedRow, hp]
  | staleAbort hp hs hstale => simp [selectedRow, hp, hs, hstale]
  | idle hp hidle =>
    rcases hidle with hs | hfresh
    · simp [selectedRow, hp, hs]
    · simp [selectedRow, hp, hfresh]
  | readOk hk => simp [selectedRow, Nat.not_le.mpr hk]
  | readBad hk => simp [selectedRow, hk]

/-- Settles O21: the selected row applies and does what its operation does, which completes; any other row that applied
would be the selected one. -/
theorem exactlyOneCaseApplies : Obligations.ExactlyOneCaseApplies := by
  intro s w h hb hw
  obtain ⟨hrow, hself⟩ : RowOf s w (selectedRow s w) ∧ w.presented = some w := by
    rcases hw with ⟨b, t, rfl⟩ | ⟨now, rfl⟩ | ⟨k, rfl⟩
    · exact ⟨rowOf_selectedRow_byte h b t, rfl⟩
    · exact ⟨rowOf_selectedRow_poll s now, rfl⟩
    · exact ⟨rowOf_selectedRow_read s k, rfl⟩
  have heq := hrow.exec_eq hb
  refine ⟨_, ⟨hrow.isCase, hrow.presented, heq, heq ▸ exec_presented_completes h hb hself⟩, fun j hcase hj hne => ?_⟩
  refine exec_row_of_not_applies hb hcase (Bool.eq_false_iff.mpr fun happlies => hne ?_)
  exact (rowOf_of_applies hcase hj happlies).eq_selectedRow

/-! ## What a byte inside a frame stores -/

/-- Inside a frame every byte is stored at the position. -/
theorem ByteStep.stores {s s' : State} {b : Byte} {t : Nat} (h : ByteStep s b t s') (hs : s.state ≠ .awaitingSync) :
    s'.buf = s.buf.write s.idx b ∧ s'.idx = s.idx + 1 ∧ s'.lastT = portTime s.cfg t ∧ s.idx < s.cfg.bufCap := by
  cases h with
  | drop hs' | sync hs' => exact absurd hs' hs
  | status _ room | oversize _ room | length _ room | payload _ room | checksumHigh _ room => exact ⟨rfl, rfl, rfl, room⟩
  | publish hc hcrc hp =>
    obtain ⟨⟨-, hidx, -, ht, -⟩, -, -, -, hbuf⟩ := publishFrame_frame hp
    exact ⟨hbuf, hidx, ht, hc.room⟩
  | discard hc => exact ⟨rfl, rfl, rfl, hc.room⟩

/-- How BYTE moves the decoder state (R22). -/
theorem ByteStep.state_moves {s s' : State} {b : Byte} {t : Nat} (h : ByteStep s b t s') :
    s'.state = .awaitingSync ∨ s'.state = s.state ∨
    (s.state = .awaitingSync ∧ s'.state = .readingStatus) ∨
    (s.state = .readingStatus ∧ s'.state = .readingLength) ∨
    (s.state = .readingLength ∧ s'.state = .readingPayload) ∨
    (s.state = .readingLength ∧ s'.state = .readingChecksum ∧ s'.len = 0#8) ∨
    (s.state = .readingPayload ∧ s'.state = .readingChecksum) := by
  cases h with
  | drop | oversize | discard => simp_all [lengthRefused]
  | sync hs => exact .inr (.inr (.inl ⟨hs, rfl⟩))
  | status hs => exact .inr (.inr (.inr (.inl ⟨hs, rfl⟩)))
  | length hs =>
    by_cases hzero : b = 0#8
    · exact .inr (.inr (.inr (.inr (.inr (.inl ⟨hs, if_pos hzero, hzero⟩)))))
    · exact .inr (.inr (.inr (.inr (.inl ⟨hs, if_neg hzero⟩))))
  | payload hs =>
    by_cases hlast : s.idx + 1 = 3 + s.len.toNat
    · exact .inr (.inr (.inr (.inr (.inr (.inr ⟨hs, if_pos hlast⟩)))))
    · exact .inr (.inl ((if_neg hlast).trans hs.symm))
  | checksumHigh hs => exact .inr (.inl hs.symm)
  | publish hc hcrc hp =>
    obtain ⟨⟨hstate, -⟩, -⟩ := publishFrame_frame hp
    exact .inl hstate

/-- Settles O31: `ByteStep.stores`, and no row but BYTE.SYNC leads to `ReadingStatus`. -/
theorem everyByteInsideAFrameIsStored : Obligations.EveryByteInsideAFrameIsStored := by
  intro s b t h hb hs
  obtain ⟨s', hstep⟩ := exists_byteStep b t h.room
  obtain ⟨hbuf, hidx, ht, -⟩ := hstep.stores hs
  refine ⟨s', exec_byte_eq_next_iff.mpr ⟨hb, hstep⟩, storedAt_write s s.idx b hbuf, hidx, ht, ?_, hstep.sameSetting⟩
  cases hstep with
  | drop hs' | sync hs' => exact absurd hs' hs
  | status | oversize | checksumHigh | discard => nofun
  | length =>
    show (if b = 0#8 then DecoderState.readingChecksum else .readingPayload) ≠ .readingStatus
    split <;> nofun
  | payload =>
    show (if s.idx + 1 = 3 + s.len.toNat then DecoderState.readingChecksum else .readingPayload) ≠ .readingStatus
    split <;> nofun
  | publish hc hcrc hp =>
    obtain ⟨⟨hstate, -⟩, -⟩ := publishFrame_frame hp
    show _ ≠ DecoderState.readingStatus
    rw [respond_state, hstate]
    nofun

/-- Settles O32: only BYTE moves the decoder state forward, and `ByteStep.state_moves` says how. -/
theorem decoderStateMovesForward : Obligations.DecoderStateMovesForward := by
  intro i s s' h
  cases opStep_of_exec h with
  | byte hstep => exact hstep.state_moves
  | report | result => exact .inr (.inl rfl)
  | abort | init => exact .inl rfl
  | publish hp =>
    obtain ⟨⟨hstate, -⟩, -⟩ := publishFrame_frame hp
    exact .inr (.inl hstate)

/-! ## The length byte -/

theorem countOne_toNat (n : Counter) : (countOne n).toNat = (n.toNat + 1) % 2 ^ 32 := BitVec.toNat_add n 1#32

/-- A row that applies answers what the case of BYTE does. -/
theorem exec_row_of_byteStep {j : Instr} {s s' : State} {b : Byte} {t : Nat} (hrow : RowOf s (.byte b t) j)
    (hb : s.booted = true) (hstep : ByteStep s b t s') : exec j s = .next s' :=
  (hrow.exec_eq hb).trans (exec_byte_eq_next_iff.mpr ⟨hb, hstep⟩)

/-- Settles O26: position 2 is inside every buffer, so the row answers `lengthRefused`. -/
theorem oversizedLengthAborts : Obligations.OversizedLengthAborts := by
  intro s b t hb hs hidx hbad
  have room : s.idx < s.cfg.bufCap := by unfold Config.bufCap; omega
  refine ⟨_, exec_row_of_byteStep (.oversize hs hbad) hb (.oversize hs room hbad), ?_⟩
  exact ⟨rfl, congrArg (· + 1) hidx, rfl, rfl, countOne_toNat _, rfl, storedAt_write s 2 b (hidx ▸ rfl),
    ⟨rfl, rfl, rfl, rfl⟩, ⟨rfl, rfl, rfl, rfl⟩, rfl⟩

/-- Everything `lengthAccepted` writes at position 2, and all that it leaves. -/
theorem lengthAccepted_effect {s : State} (b : Byte) (t : Nat) (hidx : s.idx = 2) :
    (lengthAccepted s b t).idx = 3 ∧ (lengthAccepted s b t).len = b ∧
    (lengthAccepted s b t).lastT = t % 2 ^ s.cfg.timeW ∧ StoredAt s (lengthAccepted s b t) 2 b ∧
    SameSnapshot s (lengthAccepted s b t) ∧ SameCounters s (lengthAccepted s b t) ∧
    SameSetting s (lengthAccepted s b t) ∧ (lengthAccepted s b t).out = .byte .none :=
  ⟨congrArg (· + 1) hidx, rfl, rfl, storedAt_write s 2 b (hidx ▸ rfl), ⟨rfl, rfl, rfl, rfl⟩, ⟨rfl, rfl⟩,
    ⟨rfl, rfl, rfl, rfl⟩, rfl⟩

/-- Settles O27: both rows answer `lengthAccepted`, whose decoder state tells a length of 0 from the others. -/
theorem acceptedLengthIsStored : Obligations.AcceptedLengthIsStored := by
  intro s b t hb hs hidx
  have room : s.idx < s.cfg.bufCap := by unfold Config.bufCap; omega
  constructor
  · intro hpos hle
    have hne : b ≠ 0#8 := by rintro rfl; simp at hpos
    exact ⟨_, exec_row_of_byteStep (.length hs hpos hle) hb (.length hs room hle), if_neg hne,
      lengthAccepted_effect b t hidx⟩
  · exact ⟨_, exec_row_of_byteStep (.zeroLength hs) hb (.length hs room (Nat.zero_le _)), rfl,
      lengthAccepted_effect 0#8 t hidx⟩

/-! ## The completion -/

/-- BYTE is a function of the state, the byte and the time. -/
theorem ByteStep.unique {s s' s'' : State} {b : Byte} {t : Nat} (h : ByteStep s b t s') (h' : ByteStep s b t s'') :
    s' = s'' :=
  Except.ok.inj ((byteOp_eq_ok_iff.mpr h).symm.trans (byteOp_eq_ok_iff.mpr h'))

/-- A completion ends the frame and leaves the declared length. -/
theorem ByteStep.completes_state_len {s s' : State} {b hi : Byte} {t : Nat} {body : List Byte} (h : ByteStep s b t s')
    (hc : Completes s body hi) : s'.state = .awaitingSync ∧ s'.len = s.len := by
  by_cases hcrc : crc16 body = hi ++ b
  · obtain ⟨payload, hpay, hheld⟩ := exists_holdsBytes s 3 s.len.toNat
    obtain ⟨p, hp, -⟩ := hc.publishes (b := b) (t := t) hpay hheld
    obtain rfl := h.unique (.publish hc hcrc hp)
    obtain ⟨⟨hstate, -, hlen, -⟩, -⟩ := publishFrame_frame hp
    exact ⟨hstate, hlen⟩
  · obtain rfl := h.unique (.discard hc hcrc)
    exact ⟨rfl, rfl⟩

/-- R128 on a match: the frame is published, and the counters stay. -/
theorem ByteStep.published {s s' : State} {b hi : Byte} {t : Nat} {body payload : List Byte} (h : ByteStep s b t s')
    (hc : Completes s body hi) (hcrc : crc16 body = hi ++ b) (hpay : payload.length = s.len.toNat)
    (hheld : HoldsBytes s 3 payload) :
    Published s s' (byteAt s 1) payload ∧ SameCounters s s' ∧ s'.out = .byte .frameOk := by
  obtain ⟨p, hp, hpublished⟩ := hc.publishes (b := b) (t := t) hpay hheld
  obtain rfl := h.unique (.publish hc hcrc hp)
  obtain ⟨-, hcounters, -⟩ := publishFrame_frame hp
  exact ⟨hpublished, hcounters, rfl⟩

/-- R129 on a mismatch: the frame is discarded and counted, and the snapshot and the publish state stay. -/
theorem ByteStep.discarded {s s' : State} {b hi : Byte} {t : Nat} {body : List Byte} (h : ByteStep s b t s')
    (hc : Completes s body hi) (hcrc : crc16 body ≠ hi ++ b) :
    SameSnapshot s s' ∧ s'.crcErr = countOne s.crcErr ∧ s'.lenErr = s.lenErr ∧ s'.out = .byte .crcMismatch := by
  obtain rfl := h.unique (.discard hc hcrc)
  exact ⟨⟨rfl, rfl, rfl, rfl⟩, rfl, rfl, rfl⟩

/-- The bytes of a frame but for the checksum: where its status and its payload stand. -/
theorem holdsBytes_frame {s : State} {status hi len : Byte} {payload : List Byte}
    (h : HoldsBytes s 0 ([0xA8#8, status, len] ++ payload ++ [hi])) : byteAt s 1 = status ∧ HoldsBytes s 3 payload := by
  obtain ⟨hbody, -⟩ := holdsBytes_append.mp h
  obtain ⟨hhead, hpay⟩ := holdsBytes_append.mp hbody
  exact ⟨Option.some.inj (hhead 1 (by simp)), hpay⟩

/-- Settles O30: the frame in the buffer is the one that the completion compares, and one of `ByteStep.published` and
`ByteStep.discarded` says the rest. -/
theorem completionPublishesOrDiscards : Obligations.CompletionPublishesOrDiscards := by
  intro s b status hi payload t hb hs hidx hlen hpay hheld
  have room : s.idx < s.cfg.bufCap := by unfold Config.bufCap; omega
  obtain ⟨rfl, hpayload⟩ := holdsBytes_frame hheld
  have hc : Completes s ([0xA8#8, byteAt s 1, s.len] ++ payload) hi :=
    ⟨hs, hidx, room, by rw [List.length_append, hpay]; rfl, hheld⟩
  obtain ⟨s', hstep⟩ := exists_byteStep_of_completes b t hc
  obtain ⟨hbuf, hidx', ht, -⟩ := hstep.stores (by simp [hs])
  obtain ⟨hstate, hlen'⟩ := hstep.completes_state_len hc
  refine ⟨s', exec_row_of_byteStep (.checksumLow hs hidx) hb hstep, hstate, by omega, hlen', ht,
    hidx ▸ storedAt_write s s.idx b hbuf, hstep.sameSetting, fun hcrc => ?_, fun hcrc => ?_⟩
  · exact hstep.published hc hcrc hpay hpayload
  · obtain ⟨hsnap, hcount, hother, hout⟩ := hstep.discarded hc hcrc
    exact ⟨hsnap, hcount ▸ countOne_toNat _, hother, hout⟩

/-- Settles O40: BYTE writes the snapshot at a publish only, POLL the publish state at a report only, READ neither. -/
theorem onlyPublishAndInitWriteTheSnapshot : Obligations.OnlyPublishAndInitWriteTheSnapshot := by
  intro i s s' hsome h
  obtain ⟨w, hw⟩ := Option.ne_none_iff_exists'.mp hsome
  have hexec := exec_presented_of_next hw h
  rcases presented_cases hw with ⟨b, t, rfl⟩ | ⟨now, rfl⟩ | ⟨k, rfl⟩ | ⟨attached, rfl⟩
  · obtain ⟨-, hstep⟩ := exec_byte_eq_next_iff.mp hexec
    by_cases hout : s'.out = .byte .frameOk
    · refine .inr (.inr (.inr ?_))
      cases hstep with
      | drop | sync | status | oversize | length | payload | checksumHigh | discard => cases hout
      | publish hc hcrc hp =>
        have hstep := ByteStep.publish hc hcrc hp
        obtain ⟨payload, hpay, hheld⟩ := exists_holdsBytes s 3 s.len.toNat
        obtain ⟨hpublished, -, -⟩ := hstep.published hc hcrc hpay hheld
        obtain ⟨hstate, -⟩ := hstep.completes_state_len hc
        exact ⟨hc.state, hc.idx, hstate, rfl, _, payload, hpay, rfl, hheld, hpublished⟩
    · exact .inl (hstep.sameSnapshot hout)
  · obtain ⟨-, rfl⟩ := exec_poll_eq_next.mp hexec
    rcases pollOp_cases s now with ⟨hp, hend⟩ | ⟨-, -, -, hend⟩ | ⟨-, -, hend⟩ <;> rw [hend]
    · exact .inr (.inl ⟨rfl, rfl, rfl, hp, rfl, rfl⟩)
    · exact .inl ⟨rfl, rfl, rfl, rfl⟩
    · exact .inl ⟨rfl, rfl, rfl, rfl⟩
  · obtain ⟨-, ⟨-, rfl⟩ | ⟨-, v, -, rfl⟩⟩ := exec_read_eq_next.mp hexec
    · exact .inl ⟨rfl, rfl, rfl, rfl⟩
    · exact .inl ⟨rfl, rfl, rfl, rfl⟩
  · exact .inr (.inr (.inl ⟨attached, eq_init_of_presented hw⟩))

/-! ## Counters and event codes -/

/-- How the counters go with the event: one of them counts its own event, or both stay and it is neither event. -/
inductive Counted (s s' : State) : Prop
  | lenOversize (evt : s'.out.evt = some .lenOversize) (counts : s'.lenErr = countOne s.lenErr)
    (stays : s'.crcErr = s.crcErr)
  | crcMismatch (evt : s'.out.evt = some .crcMismatch) (counts : s'.crcErr = countOne s.crcErr)
    (stays : s'.lenErr = s.lenErr)
  | neither (hlen : s'.out.evt ≠ some .lenOversize) (hcrc : s'.out.evt ≠ some .crcMismatch) (stay : SameCounters s s')

theorem ByteStep.counted {s s' : State} {b : Byte} {t : Nat} (h : ByteStep s b t s') : Counted s s' := by
  cases h with
  | drop | sync | status | length | payload | checksumHigh => exact .neither nofun nofun ⟨rfl, rfl⟩
  | oversize => exact .lenOversize rfl rfl rfl
  | publish hc hcrc hp =>
    obtain ⟨-, hcounters, -⟩ := publishFrame_frame hp
    exact .neither nofun nofun hcounters
  | discard => exact .crcMismatch rfl rfl rfl

theorem counted_of_exec {i : Instr} {s s' : State} (hsome : i.presented ≠ none) (hinit : ∀ attached, i ≠ .init attached)
    (h : exec i s = .next s') : Counted s s' := by
  obtain ⟨w, hw⟩ := Option.ne_none_iff_exists'.mp hsome
  have hexec := exec_presented_of_next hw h
  rcases presented_cases hw with ⟨b, t, rfl⟩ | ⟨now, rfl⟩ | ⟨k, rfl⟩ | ⟨attached, rfl⟩
  · obtain ⟨-, hstep⟩ := exec_byte_eq_next_iff.mp hexec
    exact hstep.counted
  · obtain ⟨-, rfl⟩ := exec_poll_eq_next.mp hexec
    rcases pollOp_cases s now with ⟨-, hend⟩ | ⟨-, -, -, hend⟩ | ⟨-, -, hend⟩ <;> rw [hend] <;>
      exact .neither nofun nofun ⟨rfl, rfl⟩
  · obtain ⟨-, ⟨-, rfl⟩ | ⟨-, v, -, rfl⟩⟩ := exec_read_eq_next.mp hexec <;>
      exact .neither nofun nofun ⟨rfl, rfl⟩
  · exact absurd (eq_init_of_presented hw) (hinit attached)

/-- Settles O41: the three cases of `Counted`. -/
theorem countersCountTheirEvents : Obligations.CountersCountTheirEvents := by
  intro i s s' hsome h hinit
  cases counted_of_exec hsome hinit h with
  | lenOversize evt counts stays =>
    exact ⟨fun _ => counts ▸ countOne_toNat _, fun hne => absurd evt hne, fun he => by simp [evt] at he, fun _ => stays⟩
  | crcMismatch evt counts stays =>
    exact ⟨fun he => by simp [evt] at he, fun _ => stays, fun _ => counts ▸ countOne_toNat _, fun hne => absurd evt hne⟩
  | neither hlen hcrc stay =>
    obtain ⟨hl, hc⟩ := stay
    exact ⟨fun he => absurd he hlen, fun _ => hl, fun he => absurd he hcrc, fun _ => hc⟩

end Sys2Proof.Machine
end

section
/-! The event codes (`30_encoding.md` rules R75 and R77, `60_exceptions.md` rule R201): each is returned for its cause,
and for nothing else. -/

namespace Sys2Proof.Machine

variable {s s' : State} {b : Byte} {t : Nat}

/-! ## The events of BYTE -/

theorem ByteStep.evt_syncMiss_iff (h : ByteStep s b t s') :
    s'.out.evt = some .syncMiss ↔ s.state = .awaitingSync ∧ b ≠ 0xA8#8 := by
  constructor
  · intro he
    cases h with
    | drop hs hb => exact ⟨hs, hb⟩
    | sync | status | oversize | length | payload | checksumHigh | publish | discard => cases he
  · rintro ⟨hs, hb⟩
    obtain rfl := h.unique (.drop hs hb)
    rfl

theorem ByteStep.evt_lenOversize_iff (h : ByteStep s b t s') :
    s'.out.evt = some .lenOversize ↔ s.state = .readingLength ∧ s.cfg.maxPayload < b.toNat := by
  constructor
  · intro he
    cases h with
    | oversize hs room hbad => exact ⟨hs, hbad⟩
    | drop | sync | status | length | payload | checksumHigh | publish | discard => cases he
  · rintro ⟨hs, hbad⟩
    obtain ⟨-, -, -, room⟩ := h.stores (by simp [hs])
    obtain rfl := h.unique (.oversize hs room hbad)
    rfl

/-- A BYTE that completes in `ReadingChecksum` at position `4 + L` is a completion. -/
theorem ByteStep.completes (h : ByteStep s b t s') {body : List Byte} {hi : Byte} (hs : s.state = .readingChecksum)
    (hidx : s.idx = 4 + s.len.toNat) (hlen : body.length = 3 + s.len.toNat) (hheld : HoldsBytes s 0 (body ++ [hi])) :
    Completes s body hi := by
  obtain ⟨-, -, -, room⟩ := h.stores (by simp [hs])
  exact ⟨hs, hidx, room, hlen, hheld⟩

theorem ByteStep.evt_crcMismatch_iff (h : ByteStep s b t s') :
    s'.out.evt = some .crcMismatch ↔ ∃ body hi, s.state = .readingChecksum ∧ s.idx = 4 + s.len.toNat ∧
      body.length = 3 + s.len.toNat ∧ HoldsBytes s 0 (body ++ [hi]) ∧ crc16 body ≠ hi ++ b := by
  constructor
  · intro he
    cases h with
    | discard hc hcrc => exact ⟨_, _, hc.state, hc.idx, hc.length, hc.held, hcrc⟩
    | drop | sync | status | oversize | length | payload | checksumHigh | publish => cases he
  · rintro ⟨body, hi, hs, hidx, hlen, hheld, hcrc⟩
    obtain rfl := h.unique (.discard (h.completes hs hidx hlen hheld) hcrc)
    rfl

theorem ByteStep.evt_frameOk_iff (h : ByteStep s b t s') :
    s'.out.evt = some .frameOk ↔ ∃ body hi, s.state = .readingChecksum ∧ s.idx = 4 + s.len.toNat ∧
      body.length = 3 + s.len.toNat ∧ HoldsBytes s 0 (body ++ [hi]) ∧ crc16 body = hi ++ b := by
  constructor
  · intro he
    cases h with
    | publish hc hcrc hp => exact ⟨_, _, hc.state, hc.idx, hc.length, hc.held, hcrc⟩
    | drop | sync | status | oversize | length | payload | checksumHigh | discard => cases he
  · rintro ⟨body, hi, hs, hidx, hlen, hheld, hcrc⟩
    obtain ⟨payload, hpay, hpayload⟩ := exists_holdsBytes s 3 s.len.toNat
    obtain ⟨-, -, hout⟩ := h.published (h.completes hs hidx hlen hheld) hcrc hpay hpayload
    rw [hout]
    rfl

/-- BYTE runs no watchdog and reads no channel. -/
theorem ByteStep.evt_ne (h : ByteStep s b t s') :
    s'.out.evt ≠ some .staleAbort ∧ s'.out.evt ≠ some .indexRange := by
  cases h <;> exact ⟨nofun, nofun⟩

/-! ## The obligations -/

/-- Settles O52: operation by operation; the causes of BYTE's events are the lemmas above, those of POLL the three cases
of `pollOp_cases`, and READ returns INDEX_RANGE exactly where it rejects the index. -/
theorem eventCodeTellsItsCause : Obligations.EventCodeTellsItsCause := by
  intro i w s s' hw h
  have hexec := exec_presented_of_next hw h
  simp only [← stale_iff]
  rcases presented_cases hw with ⟨b, t, rfl⟩ | ⟨now, rfl⟩ | ⟨k, rfl⟩ | ⟨attached, rfl⟩
  · obtain ⟨-, hstep⟩ := exec_byte_eq_next_iff.mp hexec
    obtain ⟨hstale, hindex⟩ := hstep.evt_ne
    obtain ⟨evt, hout⟩ := hstep.exists_evt
    refine ⟨hstep.evt_syncMiss_iff.trans ?_, hstep.evt_lenOversize_iff.trans ?_, iff_of_false hstale nofun,
      iff_of_false hindex nofun, hstep.evt_crcMismatch_iff.trans ?_, hstep.evt_frameOk_iff.trans ?_,
      evt, congrArg Result.evt hout⟩
    · exact ⟨fun h => ⟨b, t, rfl, h⟩, by rintro ⟨_, _, ⟨⟩, h⟩; exact h⟩
    · exact ⟨fun h => ⟨b, t, rfl, h⟩, by rintro ⟨_, _, ⟨⟩, h⟩; exact h⟩
    · exact ⟨fun ⟨body, hi, h⟩ => ⟨b, t, body, hi, rfl, h⟩, by rintro ⟨_, _, body, hi, ⟨⟩, h⟩; exact ⟨body, hi, h⟩⟩
    · exact ⟨fun ⟨body, hi, h⟩ => ⟨b, t, body, hi, rfl, h⟩, by rintro ⟨_, _, body, hi, ⟨⟩, h⟩; exact ⟨body, hi, h⟩⟩
  · obtain ⟨-, rfl⟩ := exec_poll_eq_next.mp hexec
    rcases pollOp_cases s now with ⟨hp, hend⟩ | ⟨hp, hs, hstale, hend⟩ | ⟨hp, hs | hfresh, hend⟩ <;> rw [hend]
    · simp [Result.evt, hp]
    · simp [Result.evt, hp, hs, hstale]
    · simp [Result.evt, hs]
    · simp [Result.evt, hfresh]
  · obtain ⟨-, ⟨hk, rfl⟩ | ⟨hk, v, -, rfl⟩⟩ := exec_read_eq_next.mp hexec
    · simp [Result.evt, hk]
    · simp [Result.evt, hk]
  · obtain rfl := exec_init_eq_next.mp hexec
    simp [Result.evt]

/-- Settles O53: the codes are closed terms, and each of the three types is finite. -/
theorem codesAreThoseOfTheSpec : Obligations.CodesAreThoseOfTheSpec := by
  have hpub : ∀ p : PublishState, PublishState.ofCode p.code = some p := by
    intro p
    cases p <;> rfl
  have hstate : ∀ d : DecoderState, d.code.toNat < 5 := by
    intro d
    cases d <;> decide
  have hevt : ∀ e : Evt, e.code ≠ 7#3 := by
    intro e
    cases e <;> decide
  exact ⟨rfl, rfl, rfl, hpub, rfl, rfl, rfl, rfl, rfl, rfl, hstate, rfl, rfl, rfl, rfl, rfl, rfl, rfl, hevt⟩

end Sys2Proof.Machine
end

section
/-! POLL, READ, reset and the steps of the agents (`43_status_watchdog.md`, `70_reset_and_hazards.md`, `20_memory.md`
rules R52 to R57). -/

namespace Sys2Proof.Machine

/-! ## POLL -/

/-- Whatever POLL returns, nothing is left to report. -/
theorem pollOp_pub (s : State) (now : Nat) : (pollOp s now).pub = .nothingNew := by
  rcases pollOp_cases s now with ⟨-, h⟩ | ⟨hp, -, -, h⟩ | ⟨hp, -, h⟩ <;> rw [h]
  · rfl
  · exact hp
  · exact hp

/-- POLL returns the publish state (R171 to R173). -/
theorem pollOp_out (s : State) (now : Nat) : ∃ evt, (pollOp s now).out = .poll s.pub evt := by
  rcases pollOp_cases s now with ⟨-, h⟩ | ⟨hp, -, -, h⟩ | ⟨hp, -, h⟩ <;> rw [h]
  · exact ⟨_, rfl⟩
  · exact ⟨.staleAbort, by rw [hp]; rfl⟩
  · exact ⟨.none, by rw [hp]; rfl⟩

/-- Settles O46: the first POLL leaves nothing to report, and the second returns that. -/
theorem secondPollReturnsNothingNew : Obligations.SecondPollReturnsNothingNew := by
  intro s s' s'' now now' h h'
  obtain ⟨-, rfl⟩ := exec_poll_eq_next.mp h
  obtain ⟨-, rfl⟩ := exec_poll_eq_next.mp h'
  obtain ⟨evt, hout⟩ := pollOp_out (pollOp s now) now'
  exact ⟨evt, pollOp_pub s now ▸ hout⟩

/-- Settles O43: the row applies, and its body is `abortFrame`. -/
theorem stalePollAbortsTheFrame : Obligations.StalePollAbortsTheFrame := by
  intro s now hb hp hs helapsed
  exact whenRow_of_applies hb (decide_eq_true ⟨hp, hs, (stale_iff s now).mpr helapsed⟩)

theorem elapsed_lt_timeSpan (c : Config) (now last : Nat) : elapsed c now last < c.timeSpan := BitVec.isLt _

/-- Settles O48: the elapsed time is below `2^TIME_W`, so it does not exceed the threshold. -/
theorem largestThresholdNeverAborts : Obligations.LargestThresholdNeverAborts := by
  intro s s' now hmax h
  obtain ⟨-, rfl⟩ := exec_poll_eq_next.mp h
  rcases pollOp_cases s now with ⟨-, hend⟩ | ⟨-, -, hstale, -⟩ | ⟨-, -, hend⟩
  · rw [hend, reportStatus_state]
  · have hlt := elapsed_lt_timeSpan s.cfg now s.lastT
    have hover : s.cfg.staleThreshold < elapsed s.cfg now s.lastT := of_decide_eq_true hstale
    omega
  · rw [hend, reportNothing_state]

/-- The modular difference does not change when either time is taken modulo `2^TIME_W`. -/
theorem elapsed_mod (c : Config) (now last : Nat) :
    ((elapsed c (now % c.timeSpan) (last % c.timeSpan) : Nat) : Int) = ((now : Int) - last) % (c.timeSpan : Nat) := by
  rw [elapsed_eq_emod, Int.natCast_emod, Int.natCast_emod, ← Int.sub_emod]

/-- Settles O47: the difference of the two times, modulo `2^TIME_W`, is `gap` one way and `2^TIME_W - gap` the other. -/
theorem elapsedTimeIsModular : Obligations.ElapsedTimeIsModular := by
  intro c last gap
  constructor
  · have h := elapsed_mod c (last + gap) last
    rw [Int.natCast_add, add_sub_cancel_left] at h
    exact_mod_cast h
  · intro hpos hlt
    have h := elapsed_mod c last (last + gap)
    have hdiff : ((last : Int) - (last + gap : Nat)) % (c.timeSpan : Nat) = (c.timeSpan : Int) - gap := by
      rw [← Int.add_emod_right, Int.emod_eq_of_lt (by omega) (by omega)]
      omega
    rw [hdiff] at h
    omega

/-! ## READ -/

/-- Settles O49: READ by `exec_read_eq_next`, and the row that the index selects does the same. -/
theorem readReturnsThePublishedEntry : Obligations.ReadReturnsThePublishedEntry := by
  intro s k hb hsize
  refine ⟨fun v hk hv => ⟨?_, ?_⟩, fun hk => ⟨_, List.getElem?_eq_getElem (hsize ▸ hk)⟩, fun hk => ⟨?_, ?_⟩⟩
  · exact exec_read_eq_next.mpr ⟨hb, .inr ⟨hk, v, hv, rfl⟩⟩
  · exact RowOf.exec_eq (.readOk hk) hb
  · exact exec_read_eq_next.mpr ⟨hb, .inl ⟨hk, rfl⟩⟩
  · exact RowOf.exec_eq (.readBad hk) hb

/-- What READ returns is settled by the configuration and the channel array. -/
theorem exec_read_congr {s m r : State} {k : Byte} (hcfg : m.cfg = s.cfg) (hb : m.booted = s.booted) (hch : m.ch = s.ch)
    (h : exec (.read k) s = .next r) : exec (.read k) m = .next (respond m r.out) := by
  obtain ⟨hs, hcase⟩ := exec_read_eq_next.mp h
  refine exec_read_eq_next.mpr ⟨hb.trans hs, ?_⟩
  rw [hcfg, hch]
  rcases hcase with ⟨hk, rfl⟩ | ⟨hk, v, hv, rfl⟩
  · exact .inl ⟨hk, rfl⟩
  · exact .inr ⟨hk, v, hv, rfl⟩

/-- Settles O50: `exec_read_congr` for READ, and POLL's status is the publish state. -/
theorem readResultAndPollStatusIgnoreTheFrameInProgress : Obligations.ReadResultAndPollStatusIgnoreTheFrameInProgress := by
  rintro s m hcfg hb ⟨hch, -, -, hpub⟩
  constructor
  · exact fun k r h => ⟨_, exec_read_congr hcfg hb hch h, rfl⟩
  · intro now r status evt h hout
    obtain ⟨hs, rfl⟩ := exec_poll_eq_next.mp h
    obtain ⟨evt₁, hout₁⟩ := pollOp_out s now
    obtain ⟨evt₂, hout₂⟩ := pollOp_out m now
    obtain ⟨rfl, -⟩ := Result.poll.inj (hout₁.symm.trans hout)
    exact ⟨_, evt₂, exec_poll_eq_next.mpr ⟨hb.trans hs, rfl⟩, hpub ▸ hout₂⟩

/-- READ leaves all but the result. -/
theorem exec_read_frame {s r : State} {k : Byte} (h : exec (.read k) s = .next r) : r = respond s r.out := by
  obtain ⟨-, ⟨-, rfl⟩ | ⟨-, v, -, rfl⟩⟩ := exec_read_eq_next.mp h <;> rfl

/-! ## What no operation reads: the latest result and the agents' inputs -/

/-- BYTE reads neither the latest result nor the inputs, and writes a result of its own. -/
theorem ByteStep.with_env_out {s s' : State} {b : Byte} {t : Nat} (h : ByteStep s b t s') (e : Env) (r : Result) :
    ByteStep { s with env := e, out := r } b t { s' with env := e } := by
  cases h with
  | drop hs hb => exact .drop hs hb
  | sync hs hb => exact .sync hs hb
  | status hs room => exact .status hs room
  | oversize hs room hlen => exact .oversize hs room hlen
  | length hs room hlen => exact .length hs room hlen
  | payload hs room => exact .payload hs room
  | checksumHigh hs room hidx => exact .checksumHigh hs room hidx
  | publish hc hcrc hp =>
    have hp' := publishFrame_congr (s := resync (stored s b t))
      (m := resync (stored { s with env := e, out := r } b t)) rfl rfl rfl (fun _ _ => rfl) hp
    have hstep := ByteStep.publish (s := { s with env := e, out := r }) { hc with } hcrc hp'
    obtain ⟨us, status, -, -, rfl⟩ := publishFrame_eq_ok.mp hp
    exact hstep
  | discard hc hcrc => exact .discard { hc with } hcrc

theorem pollOp_with_env (s : State) (now : Nat) (e : Env) :
    pollOp { s with env := e } now = { pollOp s now with env := e } := by
  rcases pollOp_cases s now with ⟨hp, hend⟩ | ⟨hp, hs, hstale, hend⟩ | ⟨hp, hidle, hend⟩ <;> rw [hend]
  · exact pollOp_of_pub hp
  · exact pollOp_of_stale hp hs hstale
  · exact pollOp_of_idle hp hidle

/-- No operation that the environment presents reads the inputs. -/
theorem exec_with_env {i : Instr} {s s' : State} (hi : i.presented = some i) (e : Env) (h : exec i s = .next s') :
    exec i { s with env := e } = .next { s' with env := e } := by
  rcases presented_cases hi with ⟨b, t, rfl⟩ | ⟨now, rfl⟩ | ⟨k, rfl⟩ | ⟨attached, rfl⟩
  · obtain ⟨hb, hstep⟩ := exec_byte_eq_next_iff.mp h
    exact exec_byte_eq_next_iff.mpr ⟨hb, hstep.with_env_out e s.out⟩
  · obtain ⟨hb, rfl⟩ := exec_poll_eq_next.mp h
    exact exec_poll_eq_next.mpr ⟨hb, (pollOp_with_env s now e).symm⟩
  · have hread := exec_read_congr (s := s) (m := { s with env := e }) rfl rfl rfl h
    rw [exec_read_frame h]
    exact hread
  · obtain rfl := exec_init_eq_next.mp h
    rfl

/-- Settles O51: READ leaves all that BYTE reads, and an unpublished BYTE all that READ reads. -/
theorem readCommutesWithUnpublishedByte : Obligations.ReadCommutesWithUnpublishedByte := by
  intro s s₁ s₂ r₁ r₂ b k t hbyte hread hread' hbyte' hout
  obtain ⟨-, hstep⟩ := exec_byte_eq_next_iff.mp hbyte
  obtain ⟨-, hstep'⟩ := exec_byte_eq_next_iff.mp hbyte'
  obtain ⟨hcfg, hb, henv, -⟩ := hstep.sameSetting
  obtain ⟨hch, -⟩ := hstep.sameSnapshot hout
  rw [exec_read_frame hread'] at hstep'
  obtain rfl : s₁ = r₂ := by
    have hsame := (hstep.with_env_out s.env r₁.out).unique hstep'
    rwa [← henv] at hsame
  have hs₂ : respond s₁ r₁.out = s₂ :=
    Host.Outcome.next.inj ((exec_read_congr hcfg hb hch hread').symm.trans hread)
  subst hs₂
  exact ⟨rfl, rfl, rfl⟩

/-! ## Reset and INIT -/

/-- Settles O9: each field by definition. -/
theorem resetValues : Obligations.ResetValues := by
  intro c
  exact ⟨rfl, rfl, rfl, rfl, rfl, List.length_replicate, fun i hi => List.getElem?_replicate_of_lt hi, rfl, rfl, rfl, rfl,
    rfl, fun _ => rfl⟩

/-- Settles O10: the turn of a hardware reset answers `applyReset`. -/
theorem hardwareResetResets : Obligations.HardwareResetResets := by
  intro s ts hturns
  have hnext : nextEvent s.env = (.hardwareReset, { s.env with turns := ts }) := by simp [nextEvent, hturns]
  have hstep : step s = .next (applyReset (taken s)) := step_eq_next.mpr (.inr (.inl ⟨by rw [hnext], rfl⟩))
  have henv : (applyReset (taken s)).env = { s.env with turns := ts } := congrArg Prod.snd hnext
  exact ⟨_, hstep, rfl, rfl, rfl, rfl, rfl, List.length_replicate, fun i hi => List.getElem?_replicate_of_lt hi, rfl, rfl,
    rfl, rfl, rfl, rfl, rfl, henv, fun _ => rfl, rfl⟩

/-- Settles O11: INIT answers `applyReset` with its result. -/
theorem initResetsWhateverIsAttached : Obligations.InitResetsWhateverIsAttached := by
  intro s attached
  exact ⟨_, rfl, rfl, rfl, rfl, rfl, rfl, List.length_replicate, fun i hi => List.getElem?_replicate_of_lt hi, rfl, rfl,
    rfl, rfl, rfl, rfl, rfl, rfl, fun _ => rfl, rfl, rfl⟩

theorem whenBooted_of_not_booted {s : State} {k : Answer} (h : s.booted = false) :
    whenBooted s k = .refused .beforeFirstReset := by
  simp [whenBooted, h]

/-- Settles O12: the guard of R231 stands before every operation but INIT, and INIT sets the flag. -/
theorem noResultBeforeTheFirstReset : Obligations.NoResultBeforeTheFirstReset := by
  intro s hb
  refine ⟨fun b t => whenBooted_of_not_booted hb, fun now => whenBooted_of_not_booted hb,
    fun k => whenBooted_of_not_booted hb, fun i hi => ?_, whenBooted_of_not_booted hb, fun attached => ⟨_, rfl, rfl⟩⟩
  obtain ⟨k, hk⟩ := exec_case hi s
  exact hk.trans (whenBooted_of_not_booted hb)

/-! ## The buffer primitives -/

/-- Settles O19: below `BUF_CAP` by `memRead_eq_ok` and `memWrite_eq_ok`, and the laws of a read after a write. -/
theorem bufferPrimitives : Obligations.BufferPrimitives := by
  intro s a v
  refine ⟨fun ha b hb => memRead_eq_ok.mpr ⟨ha, byteAt_of_read hb⟩,
    fun ha hb => memRead_eq_ok.mpr ⟨ha, byteAt_of_unwritten hb⟩, fun ha => ?_, fun ha => ⟨?_, ?_⟩⟩
  · refine ⟨_, memWrite_eq_ok.mpr ⟨ha, rfl⟩, memRead_eq_ok.mpr ⟨ha, byteAt_of_read (Memory.read_write_same _ _ _)⟩,
      fun x hx => ?_, fun hwf => Memory.write_wf hwf a v, rfl⟩
    have hsame : byteAt { s with buf := s.buf.write a v } x = byteAt s x :=
      byteAt_congr (Memory.read_write_other _ _ hx) rfl
    simp only [memRead, hsame]
  · exact if_neg (Nat.not_lt.mpr ha)
  · exact if_neg (Nat.not_lt.mpr ha)

/-! ## The agents -/

/-- Settles O6: the third branch of the step. -/
theorem stepRunsDecodedInstruction : Obligations.StepRunsDecodedInstruction := by
  intro s r i hr hi
  simp only [step, hr, hi]

/-- A step leaves the inputs that `nextEvent` leaves. -/
theorem step_env {s s' : State} (h : step s = .next s') : s'.env = (nextEvent s.env).2 := by
  rcases step_eq_next.mp h with ⟨-, rfl⟩ | ⟨-, rfl⟩ | ⟨r, i, -, -, hexec⟩
  · rfl
  · rfl
  · exact (opStep_of_exec hexec).cfg_env.2

theorem popRequest_snd (rs : List Request) : (popRequest rs).2 = rs.tail := by
  cases rs <;> rfl

/-- A step from a state whose inputs present an operation: the operation is that of any state with other inputs. -/
theorem step_of_request {m s s' : State} {e e' : Env} {r : Request} {i : Instr} (hm : m = { s with env := e })
    (hnext : nextEvent e = (.request r, e')) (hr : decode r = .ok i) (h : exec i s = .next s') :
    step m = .next { s' with env := e' } := by
  subst hm
  refine step_eq_next.mpr (.inr (.inr ⟨r, i, congrArg Prod.fst hnext, hr, ?_⟩))
  have htaken : taken { s with env := e } = { s with env := e' } := by simp only [taken, hnext]
  rw [htaken]
  exact exec_with_env (presented_of_decode hr) e' h

theorem run_two {s m s' : State} (h : step s = .next m) (h' : step m = .next s') :
    Host.Core.run Sys2Proof.core 2 s = .next s' := by
  have hstep : Sys2Proof.core.step s = .next m := h
  have hstep' : Sys2Proof.core.step m = .next s' := h'
  simp only [Host.Core.run, hstep, hstep']

theorem exec_env {i : Instr} {s s' : State} (h : exec i s = .next s') : s'.env = s.env := (opStep_of_exec h).cfg_env.2

/-- Two operations that the inputs present one after the other are executed in that order. -/
theorem run_two_of_requests {s s₁ s₂ : State} {e₁ e₂ : Env} {p q : Request} {i j : Instr}
    (hp : nextEvent s.env = (.request p, e₁)) (hq : nextEvent e₁ = (.request q, e₂)) (hi : decode p = .ok i)
    (hj : decode q = .ok j) (h₁ : exec i { s with env := e₂ } = .next s₁) (h₂ : exec j s₁ = .next s₂) :
    Host.Core.run Sys2Proof.core 2 s = .next s₂ := by
  have henv : s₂.env = e₂ := (exec_env h₂).trans (exec_env h₁)
  have hlast : { s₂ with env := e₂ } = s₂ := by rw [← henv]
  refine run_two (step_of_request (s := { s with env := e₂ }) (e := s.env) rfl hp hi h₁) ?_
  rw [step_of_request rfl hq hj h₂, hlast]

/-- Settles O8: the turns say in which order `nextEvent` takes the two requests, and `run_two_of_requests` runs them. -/
theorem bothOrdersOfTheAgentsAreExecutions : Obligations.BothOrdersOfTheAgentsAreExecutions := by
  intro s p q i j ps qs ts hi hj hps hqs rest
  constructor
  · intro hturns s₁ s₂ h₁ h₂
    have hp : nextEvent s.env = (.request p, { s.env with producer := ps, turns := .consumer :: ts }) := by
      simp [nextEvent, hturns, hps, popRequest, Event.ofRequest]
    exact run_two_of_requests hp (by simp [nextEvent, hqs, popRequest, Event.ofRequest, rest]) hi hj h₁ h₂
  · intro hturns s₁ s₂ h₁ h₂
    have hq : nextEvent s.env = (.request q, { s.env with consumer := qs, turns := .producer :: ts }) := by
      simp [nextEvent, hturns, hqs, popRequest, Event.ofRequest]
    exact run_two_of_requests hq (by simp [nextEvent, hps, popRequest, Event.ofRequest, rest]) hj hi h₁ h₂

/-- Settles O7: the first turn says whose list `nextEvent` shortens. -/
theorem eachAgentKeepsItsOrder : Obligations.EachAgentKeepsItsOrder := by
  intro s s' h
  rw [step_env h]
  cases hturns : s.env.turns with
  | nil => exact .inl ⟨rfl, by simp [nextEvent, hturns]⟩
  | cons turn ts =>
    refine .inr ?_
    cases turn with
    | producer => exact .inl ⟨ts, rfl, by simp [nextEvent, hturns, popRequest_snd]⟩
    | consumer => exact .inr (.inl ⟨ts, rfl, by simp [nextEvent, hturns, popRequest_snd]⟩)
    | initializer => exact .inr (.inr (.inl ⟨ts, rfl, by simp [nextEvent, hturns, popRequest_snd]⟩))
    | hardwareReset => exact .inr (.inr (.inr ⟨ts, rfl, by simp [nextEvent, hturns]⟩))

end Sys2Proof.Machine
end

section
/-! Whole frames (`95_test_vectors.md` section 1, W0 and W2): the bytes of a frame, one after another, lead from
`AwaitingSync` to the completion, with the frame in the buffer and everything else as it was. -/

namespace Sys2Proof.Machine

/-! ## Chains of states that agree in a group of fields -/

theorem SameSnapshot.trans {s m s' : State} (h : SameSnapshot s m) (h' : SameSnapshot m s') : SameSnapshot s s' := by
  obtain ⟨hch, hfs, hvalid, hpub⟩ := h
  obtain ⟨hch', hfs', hvalid', hpub'⟩ := h'
  exact ⟨hch'.trans hch, hfs'.trans hfs, hvalid'.trans hvalid, hpub'.trans hpub⟩

theorem SameCounters.trans {s m s' : State} (h : SameCounters s m) (h' : SameCounters m s') : SameCounters s s' := by
  obtain ⟨hlen, hcrc⟩ := h
  obtain ⟨hlen', hcrc'⟩ := h'
  exact ⟨hlen'.trans hlen, hcrc'.trans hcrc⟩

theorem SameSetting.trans {s m s' : State} (h : SameSetting s m) (h' : SameSetting m s') : SameSetting s s' := by
  obtain ⟨hcfg, hb, henv, hdraw⟩ := h
  obtain ⟨hcfg', hb', henv', hdraw'⟩ := h'
  exact ⟨hcfg'.trans hcfg, hb'.trans hb, henv'.trans henv, hdraw'.trans hdraw⟩

/-- A publish over a state is one over any state with the same channels. -/
theorem Published.of_same {s m s' : State} {status : Byte} {payload : List Byte} (h : Published m s' status payload)
    (hcfg : m.cfg = s.cfg) (hch : m.ch = s.ch) : Published s s' status payload := by
  unfold Published at h ⊢
  rwa [hcfg, hch] at h

/-! ## Running bytes -/

/-- The bytes `bs`, arriving from `s` on at any times, all complete and lead to a state with `P`. -/
def Leads (s : State) (bs : List Byte) (P : State → Prop) : Prop :=
  ∀ ts : List Nat, ts.length = bs.length → ∃ s', runOps (bytesAt bs ts) s = .next s' ∧ P s'

theorem Leads.nil {s : State} {P : State → Prop} (h : P s) : Leads s [] P := fun _ _ => ⟨s, rfl, h⟩

theorem Leads.cons {s : State} {b : Byte} {bs : List Byte} {P : State → Prop} (hb : s.booted = true)
    (h : ∀ t, ∃ m, ByteStep s b t m ∧ Leads m bs P) : Leads s (b :: bs) P := by
  intro ts hlen
  cases ts with
  | nil => cases hlen
  | cons t ts =>
    obtain ⟨m, hstep, hrest⟩ := h t
    obtain ⟨s', hrun, hP⟩ := hrest ts (Nat.succ.inj hlen)
    exact ⟨s', (runOps_cons_of_next (exec_byte_eq_next_iff.mpr ⟨hb, hstep⟩)).trans hrun, hP⟩

theorem Leads.append {s : State} {xs ys : List Byte} {P Q : State → Prop} (h : Leads s xs Q)
    (h' : ∀ m, Q m → Leads m ys P) : Leads s (xs ++ ys) P := by
  intro ts hlen
  rw [List.length_append] at hlen
  have hxs : (ts.take xs.length).length = xs.length := List.length_take_of_le (by omega)
  obtain ⟨m, hrun, hQ⟩ := h _ hxs
  obtain ⟨s', hrun', hP⟩ := h' m hQ (ts.drop xs.length) (by rw [List.length_drop]; omega)
  refine ⟨s', ?_, hP⟩
  rw [← List.take_append_drop xs.length ts, bytesAt_append hxs.symm, runOps_append_of_next hrun, hrun']

theorem Leads.mono {s : State} {bs : List Byte} {P Q : State → Prop} (h : Leads s bs Q) (hPQ : ∀ s', Q s' → P s') :
    Leads s bs P := by
  intro ts hlen
  obtain ⟨s', hrun, hQ⟩ := h ts hlen
  exact ⟨s', hrun, hPQ s' hQ⟩

/-- Each byte of noise is dropped, and the next one starts from a state that differs in the latest result only. -/
theorem leads_noise {s : State} {bs : List Byte} (hb : s.booted = true) (hs : s.state = .awaitingSync) (hne : bs ≠ [])
    (hnoise : ∀ b ∈ bs, b ≠ syncByte) : Leads s bs (· = { s with out := .byte .syncMiss }) := by
  induction bs generalizing s with
  | nil => exact absurd rfl hne
  | cons b bs ih =>
    refine .cons hb fun t => ⟨_, .drop hs (hnoise b List.mem_cons_self), ?_⟩
    by_cases hbs : bs = []
    · subst hbs
      exact .nil rfl
    · exact ih (s := respond s (.byte .syncMiss)) hb hs hbs fun x hx => hnoise x (List.mem_cons_of_mem b hx)

/-- Settles O33: `leads_noise`. -/
theorem noiseBetweenFramesChangesNothing : Obligations.NoiseBetweenFramesChangesNothing := by
  intro bs ts s hb hs hne hlen hnoise
  obtain ⟨s', hrun, rfl⟩ := leads_noise hb hs hne hnoise ts hlen.symm
  exact hrun

/-! ## A frame on its way -/

/-- Since `s` the bytes `bs` of a frame have arrived: they are in the buffer, and all but the frame is as in `s`. -/
structure Receiving (s m : State) (bs : List Byte) : Prop where
  inv : m.Inv
  idx : m.idx = bs.length
  held : HoldsBytes m 0 bs
  snapshot : SameSnapshot s m
  counters : SameCounters s m
  setting : SameSetting s m

theorem Receiving.booted {s m : State} {bs : List Byte} (h : Receiving s m bs) (hb : s.booted = true) : m.booted = true := by
  obtain ⟨-, hbooted, -⟩ := h.setting
  exact hbooted.trans hb

/-- The sync byte starts a frame. -/
theorem receiving_sync {s : State} (h : s.Inv) (hs : s.state = .awaitingSync) (t : Nat) :
    Receiving s (advanced (clearFrame s) syncByte t .readingStatus) [syncByte] where
  inv := ByteStep.inv (.sync hs rfl) h
  idx := rfl
  held := holdsBytes_singleton.mpr (byteAt_of_read (Memory.read_write_same _ _ _))
  snapshot := ⟨rfl, rfl, rfl, rfl⟩
  counters := ⟨rfl, rfl⟩
  setting := ⟨rfl, rfl, rfl, rfl⟩

/-- Inside a frame a byte that returns NONE is the next byte of the frame. -/
theorem Receiving.next {s m m' : State} {bs : List Byte} {b : Byte} {t : Nat} (h : Receiving s m bs)
    (hs : m.state ≠ .awaitingSync) (hstep : ByteStep m b t m') (hout : m'.out = .byte .none) :
    Receiving s m' (bs ++ [b]) := by
  obtain ⟨hbuf, hidx, -, -⟩ := hstep.stores hs
  have hsetting := hstep.sameSetting
  refine ⟨hstep.inv h.inv, ?_, ?_, h.snapshot.trans (hstep.sameSnapshot (by simp [hout])), ?_, h.setting.trans hsetting⟩
  · rw [hidx, h.idx, List.length_append]
    rfl
  · obtain ⟨-, -, -, hdraw⟩ := hsetting
    have hat : ∀ x, byteAt m' x = byteAt (stored m b t) x := fun x => byteAt_congr (by rw [hbuf]; rfl) hdraw
    have hheld : HoldsBytes (stored m b t) 0 (bs ++ [b]) := (holdsBytes_stored_concat h.idx.symm).mpr ⟨h.held, rfl⟩
    exact hheld.congr fun x _ _ => hat x
  · cases hstep.counted with
    | lenOversize evt | crcMismatch evt =>
      rw [hout] at evt
      cases evt
    | neither _ _ stay => exact h.counters.trans stay

/-- Once the length byte has arrived, the declared length is the byte at address 2. -/
theorem Receiving.len {s m : State} {bs : List Byte} {len : Byte} (h : Receiving s m bs)
    (hs : m.state = .readingPayload ∨ m.state = .readingChecksum) (hlen : bs[2]? = some len) : m.len = len := by
  obtain ⟨hlt, -⟩ := List.getElem?_eq_some_iff.mp hlen
  have hheld := h.held 2 hlt
  rw [Nat.zero_add, byteAt_of_read (h.inv.lenStored hs), hlen] at hheld
  exact Option.some.inj hheld

/-- Sync, status and length lead into the payload, or past an empty one. -/
theorem leads_header {s : State} (h : s.Inv) (hb : s.booted = true) (hs : s.state = .awaitingSync) (status : Byte)
    {len : Byte} (hlen : len.toNat ≤ s.cfg.maxPayload) :
    Leads s [syncByte, status, len] fun m => Receiving s m [syncByte, status, len] ∧
      m.state = if len = 0#8 then .readingChecksum else .readingPayload := by
  refine .cons hb fun t₀ => ⟨_, .sync hs rfl, ?_⟩
  have h₁ := receiving_sync h hs t₀
  refine .cons (h₁.booted hb) fun t₁ => ⟨_, .status rfl (h₁.inv.room nofun), ?_⟩
  have h₂ := h₁.next nofun (.status (b := status) (t := t₁) rfl (h₁.inv.room nofun)) rfl
  refine .cons (h₂.booted hb) fun t₂ => ⟨_, .length rfl (h₂.inv.room nofun) hlen, ?_⟩
  have h₃ := h₂.next nofun (.length (b := len) (t := t₂) rfl (h₂.inv.room nofun) hlen) rfl
  exact .nil ⟨h₃, rfl⟩

/-- The payload bytes still to come lead to the checksum. -/
theorem leads_payload {s m : State} {bs ys : List Byte} {len : Byte} (h : Receiving s m bs) (hb : s.booted = true)
    (hs : m.state = .readingPayload) (hne : ys ≠ []) (hlen : bs[2]? = some len)
    (hcount : bs.length + ys.length = 3 + len.toNat) :
    Leads m ys fun m' => Receiving s m' (bs ++ ys) ∧ m'.state = .readingChecksum := by
  induction ys generalizing m bs with
  | nil => exact absurd rfl hne
  | cons y ys ih =>
    have hs' : m.state ≠ .awaitingSync := by simp [hs]
    refine .cons (h.booted hb) fun t => ⟨_, .payload hs (h.inv.room hs'), ?_⟩
    have hnext := h.next hs' (.payload (b := y) (t := t) hs (h.inv.room hs')) rfl
    have hmlen := h.len (.inl hs) hlen
    have hidx := h.idx
    rw [List.length_cons] at hcount
    by_cases hys : ys = []
    · subst hys
      rw [List.length_nil] at hcount
      exact .nil ⟨hnext, if_pos (by rw [hmlen]; omega)⟩
    · have hpos := List.length_pos_iff.mpr hys
      have hstate : (if m.idx + 1 = 3 + m.len.toNat then DecoderState.readingChecksum else .readingPayload) =
          .readingPayload := if_neg (by rw [hmlen]; omega)
      rw [hstate] at hnext ⊢
      have hmid : (bs ++ [y])[2]? = some len := by
        obtain ⟨hlt, -⟩ := List.getElem?_eq_some_iff.mp hlen
        rw [List.getElem?_append_left hlt, hlen]
      have hcount' : (bs ++ [y]).length + ys.length = 3 + len.toNat := by
        rw [List.length_append, List.length_singleton]
        omega
      simpa only [List.append_assoc, List.singleton_append] using ih hnext rfl hys hmid hcount'

/-- The frame's body leads to the checksum, with the body in the buffer. -/
theorem leads_frameBody {s : State} {status : Byte} {payload : List Byte} (h : s.Inv) (hb : s.booted = true)
    (hs : s.state = .awaitingSync) (hmax : payload.length ≤ s.cfg.maxPayload) :
    Leads s (frameBody status payload) fun m => Receiving s m (frameBody status payload) ∧
      m.state = .readingChecksum ∧ m.len.toNat = payload.length := by
  have hcap : s.cfg.maxPayload ≤ 255 := h.cfgValid.1
  have hlen : (BitVec.ofNat 8 payload.length).toNat = payload.length := by
    rw [BitVec.toNat_ofNat]
    omega
  have hthird : (frameBody status payload)[2]? = some (BitVec.ofNat 8 payload.length) := rfl
  have hchecksum : ∀ m, Receiving s m (frameBody status payload) → m.state = .readingChecksum →
      Receiving s m (frameBody status payload) ∧ m.state = .readingChecksum ∧ m.len.toNat = payload.length :=
    fun m hm hstate => ⟨hm, hstate, by rw [hm.len (.inr hstate) hthird, hlen]⟩
  refine (leads_header h hb hs status (hlen.trans_le hmax)).append (ys := payload) ?_
  rintro m ⟨hm, hstate⟩
  by_cases hempty : payload = []
  · subst hempty
    exact .nil (hchecksum m hm hstate)
  · have hne : BitVec.ofNat 8 payload.length ≠ 0#8 := by
      intro h0
      rw [h0] at hlen
      exact hempty (List.length_eq_zero_iff.mp hlen.symm)
    rw [if_neg hne] at hstate
    refine (leads_payload hm hb hstate hempty rfl (by rw [hlen]; rfl)).mono ?_
    rintro m' ⟨hm', hstate'⟩
    exact hchecksum m' hm' hstate'

/-- A frame's body and two checksum bytes, right or wrong, lead to the end of the completion. -/
theorem leads_completion {s : State} {status hi lo : Byte} {payload : List Byte} (h : s.Inv) (hb : s.booted = true)
    (hs : s.state = .awaitingSync) (hmax : payload.length ≤ s.cfg.maxPayload) :
    Leads s (frameBody status payload ++ [hi, lo]) fun s' => ∃ m t, Receiving s m (frameBody status payload ++ [hi]) ∧
      Completes m (frameBody status payload) hi ∧ m.len.toNat = payload.length ∧ ByteStep m lo t s' := by
  refine (leads_frameBody h hb hs hmax).append ?_
  rintro m ⟨hm, hstate, hlen⟩
  have hs' : m.state ≠ .awaitingSync := by simp [hstate]
  have hidx : m.idx = 3 + m.len.toNat := by rw [hm.idx, frameBody_length, hlen]
  refine .cons (hm.booted hb) fun t => ⟨_, .checksumHigh hstate (hm.inv.room hs') (by omega), ?_⟩
  have hm' := hm.next hs' (.checksumHigh (b := hi) (t := t) hstate (hm.inv.room hs') (by omega)) rfl
  have hc : Completes (advanced m hi t .readingChecksum) (frameBody status payload) hi :=
    ⟨rfl, by show m.idx + 1 = 4 + m.len.toNat; omega, hm'.inv.room nofun,
      by rw [frameBody_length]; exact congrArg (3 + ·) hlen.symm, hm'.held⟩
  refine .cons (hm'.booted hb) fun t' => ?_
  obtain ⟨s', hstep⟩ := exists_byteStep_of_completes lo t' hc
  exact ⟨s', hstep, .nil ⟨_, t', hm', hc, hlen, hstep⟩⟩

/-! ## The obligations -/

/-- Settles O54: `leads_completion` with the frame's own checksum, and the completion publishes on a match. -/
theorem validFrameIsPublished : Obligations.ValidFrameIsPublished := by
  intro s status payload ts h hb hs hmax hts
  obtain ⟨s', hrun, m, t, hm, hc, hlen, hstep⟩ := leads_completion h hb hs hmax ts hts
  obtain ⟨hstatus, hpayload⟩ := holdsBytes_frame hm.held
  obtain ⟨hpublished, hcounters, hout⟩ := hstep.published hc (be16_hi_lo _).symm hlen.symm hpayload
  obtain ⟨hstate, -⟩ := hstep.completes_state_len hc
  obtain ⟨hcfg, -⟩ := hm.setting
  obtain ⟨hch, -⟩ := hm.snapshot
  rw [hstatus] at hpublished
  exact ⟨s', hrun, hout, hstate, hpublished.of_same hcfg hch, hm.counters.trans hcounters,
    hm.setting.trans hstep.sameSetting, hstep.inv hm.inv⟩

/-- Settles O55: `leads_completion` with the two bytes given, and the completion discards on a mismatch. -/
theorem frameWithWrongChecksumIsDiscarded : Obligations.FrameWithWrongChecksumIsDiscarded := by
  intro s status hi lo payload ts h hb hs hmax hcrc hts
  obtain ⟨s', hrun, m, t, hm, hc, -, hstep⟩ := leads_completion h hb hs hmax ts hts
  obtain ⟨hsnap, hcount, hother, hout⟩ := hstep.discarded hc hcrc
  obtain ⟨hstate, -⟩ := hstep.completes_state_len hc
  obtain ⟨hlenErr, hcrcErr⟩ := hm.counters
  exact ⟨s', hrun, hout, hstate, hm.snapshot.trans hsnap, by rw [hcount, hcrcErr]; rfl, hother.trans hlenErr,
    hm.setting.trans hstep.sameSetting, hstep.inv hm.inv⟩

/-- Settles O56: the checksum tells the two payloads apart (O36), so the frame's checksum is a wrong one (O55). -/
theorem frameWithOneAlteredPayloadByteIsDiscarded : Obligations.FrameWithOneAlteredPayloadByteIsDiscarded := by
  intro s status a b xs ys ts h hb hs hab hmax good bad hts
  have hsame : (xs ++ b :: ys).length = (xs ++ a :: ys).length := by simp
  have hbody : ∀ c : Byte, frameBody status (xs ++ c :: ys) =
      (syncByte :: status :: BitVec.ofNat 8 (xs ++ c :: ys).length :: xs) ++ c :: ys := fun _ => rfl
  have hcrc : crc16 (frameBody status (xs ++ b :: ys)) ≠ hiByte good ++ loByte good := by
    intro heq
    have hgood : crc16 (frameBody status (xs ++ b :: ys)) = good := heq.trans (be16_hi_lo good)
    rw [hbody, hsame] at hgood
    exact checksumDetectsOneAlteredByte _ ys b a hab.symm (hgood.trans (congrArg crc16 (hbody a)))
  obtain ⟨s', hrun, hout, hstate, hsnap, -⟩ :=
    frameWithWrongChecksumIsDiscarded s status _ _ _ ts h hb hs (hsame.trans_le hmax) hcrc hts
  exact ⟨s', hrun, hout, hstate, hsnap⟩

/-- Settles O57: the POLL aborts the frame in progress and leaves the rest, and the fresh frame is published (O54). -/
theorem freshFrameAfterStalePollIsDecoded : Obligations.FreshFrameAfterStalePollIsDecoded := by
  intro s now status payload ts h hb hs hp helapsed hmax hts
  have hpoll : exec (.poll now) s = .next (abortFrame s) :=
    exec_poll_of_booted hb (pollOp_of_stale hp hs ((stale_iff s now).mpr helapsed))
  obtain ⟨s', hrun, hout, hstate, hpublished, hcounters, hsetting, -⟩ :=
    validFrameIsPublished (abortFrame s) status payload ts (OpStep.abort.inv h) hb rfl hmax hts
  exact ⟨s', (runOps_cons_of_next hpoll).trans hrun, hout, hstate, hpublished.of_same rfl rfl, hcounters, hsetting⟩

end Sys2Proof.Machine
end

section
/-! The running accumulator (`40_checksum.md` rule R104), and the noninterference of what a finished or abandoned frame
leaves behind (`10_state.md` rules R25 and R39). -/

namespace Sys2Proof.Machine

/-! ## The running accumulator -/

/-- A byte that the checksum covers, stored after the covered bytes, takes the register one step on. -/
theorem AccHolds.step {acc : Word} {s s' : State} {b : Byte} {t : Nat} (h : AccHolds acc s) (hs : s.state ≠ .awaitingSync)
    (hck : s.state ≠ .readingChecksum) (hat : ∀ a, byteAt s' a = byteAt (stored s b t) a)
    (hcover : (if s'.state = .readingChecksum then 3 + s'.len.toNat else s'.idx) = s.idx + 1) :
    AccHolds (crc16Step acc b) s' := by
  intro _ bytes hlen hheld
  rw [hcover] at hlen
  obtain rfl | ⟨body, c, rfl⟩ := List.eq_nil_or_concat' bytes
  · cases hlen
  · have hbody : body.length = s.idx := by simpa using hlen
    obtain ⟨hbytes, rfl⟩ := (holdsBytes_stored_concat hbody).mp (hheld.congr fun x _ _ => (hat x).symm)
    rw [crc16_concat, h hs body (by rw [if_neg hck, hbody]) hbytes]

/-- In `AwaitingSync` nothing is said of the register. -/
theorem accHolds_of_awaiting {acc : Word} {s : State} (hs : s.state = .awaitingSync) : AccHolds acc s :=
  fun h => absurd hs h

/-- R104: the register follows the frame. -/
theorem AccHolds.byteStep {acc : Word} {s s' : State} {b : Byte} {t : Nat} (hinv : s.Inv) (h : AccHolds acc s)
    (hstep : ByteStep s b t s') : AccHolds (accNext acc s b) s' := by
  cases hstep with
  | drop hs => exact accHolds_of_awaiting hs
  | oversize | discard => exact accHolds_of_awaiting rfl
  | publish hc hcrc hp =>
    obtain ⟨⟨hstate, -⟩, -⟩ := publishFrame_frame hp
    exact accHolds_of_awaiting hstate
  | sync hs hb =>
    subst hb
    intro _ bytes hlen hheld
    have hone := hheld.unique (receiving_sync hinv hs t).held hlen
    simp [accNext, hs, hone, crc16]
  | status hs room =>
    have hidx := hinv.atStatus hs
    simp only [accNext, hs]
    exact h.step (t := t) (by simp [hs]) (by simp [hs]) (fun _ => rfl) rfl
  | length hs room hlen =>
    have hidx := hinv.atLength hs
    simp only [accNext, hs]
    refine h.step (t := t) (by simp [hs]) (by simp [hs]) (fun _ => rfl) ?_
    by_cases hzero : b = 0#8
    · simp [lengthAccepted, hzero, hidx]
    · simp [lengthAccepted, hzero, hidx]
  | payload hs room =>
    simp only [accNext, hs]
    refine h.step (t := t) (by simp [hs]) (by simp [hs]) (fun _ => rfl) ?_
    by_cases hlast : s.idx + 1 = 3 + s.len.toNat
    · simp [advanced, hlast]
    · simp [advanced, hlast]
  | checksumHigh hs room hidx =>
    obtain ⟨-, hge, -⟩ := hinv.atChecksum hs
    simp only [accNext, hs]
    intro _ bytes hlen hheld
    have hcount : bytes.length = 3 + s.len.toNat := hlen
    have hbytes : HoldsBytes s 0 bytes := (holdsBytes_stored (b := b) (t := t) (by omega)).mp hheld
    exact h (by simp [hs]) bytes (by rw [if_pos hs, hcount]) hbytes

/-- Settles O37: `AccHolds.byteStep`, and at a completion the register is the checksum of the body that is compared. -/
theorem runningAccumulatorIsEquivalent : Obligations.RunningAccumulatorIsEquivalent := by
  intro s s' acc b t hinv hacc hexec
  obtain ⟨-, hstep⟩ := exec_byte_eq_next_iff.mp hexec
  refine ⟨hacc.byteStep hinv hstep, ?_⟩
  rintro hs hidx hi rfl
  obtain ⟨body, hi, hc⟩ := exists_completes hs hidx (hinv.room (by simp [hs]))
  obtain ⟨hbody, hhi⟩ := holdsBytes_append.mp hc.held
  rw [holdsBytes_singleton, Nat.zero_add, hc.length] at hhi
  have hsum : acc = crc16 body := hacc (by simp [hs]) body (by rw [if_pos hs, hc.length]) hbody
  rw [hsum, hhi]
  by_cases hcrc : crc16 body = hi ++ b
  · obtain ⟨payload, hpay, hheld⟩ := exists_holdsBytes s 3 s.len.toNat
    obtain ⟨-, -, hout⟩ := hstep.published hc hcrc hpay hheld
    simp [hout, hcrc]
  · obtain ⟨-, -, -, hout⟩ := hstep.discarded hc hcrc
    simp [hout, hcrc]

/-! ## States that no operation tells apart -/

/-- Inside a frame the bytes so far are stored, so they are the same whatever an unwritten entry holds. -/
theorem FrameEquiv.byteAt_eq {s r : State} (h : FrameEquiv s r) (hinv : s.Inv) (hs : s.state ≠ .awaitingSync) {a : Nat}
    (ha : a < s.idx) : byteAt r a = byteAt s a := by
  obtain ⟨v, hv⟩ := Option.isSome_iff_exists.mp (hinv.written hs a ha)
  obtain ⟨-, -, hread⟩ := h.frame hs
  rw [byteAt_of_read hv, byteAt_of_read ((hread a ha).trans hv)]

/-- Inside a frame a byte is stored at the same place in both. -/
theorem FrameEquiv.stored_frame {s r : State} (h : FrameEquiv s r) (hs : s.state ≠ .awaitingSync) (b : Byte) (t : Nat) :
    (stored r b t).idx = (stored s b t).idx ∧ (stored r b t).lastT = (stored s b t).lastT ∧
    ∀ a, a < (stored s b t).idx → (stored r b t).buf.read a = (stored s b t).buf.read a := by
  obtain ⟨hidx, -, hread⟩ := h.frame hs
  refine ⟨congrArg (· + 1) hidx, congrArg (portTime · t) h.cfg, fun a ha => ?_⟩
  rw [stored_buf, stored_buf, hidx, Memory.read_write, Memory.read_write]
  split
  · rfl
  · rw [stored_idx] at ha
    exact hread a (by omega)

theorem FrameEquiv.advanced {s r : State} (h : FrameEquiv s r) (hs : s.state ≠ .awaitingSync) (b : Byte) (t : Nat)
    {d : DecoderState} (hlen : d = .readingPayload ∨ d = .readingChecksum → r.len = s.len) :
    FrameEquiv (advanced s b t d) (advanced r b t d) :=
  { h with out := rfl, state := rfl, frame := fun _ => h.stored_frame hs b t, len := hlen }

/-- Both complete the same frame. -/
theorem FrameEquiv.completes {s r : State} {body : List Byte} {hi : Byte} (h : FrameEquiv s r) (hinv : s.Inv)
    (hc : Completes s body hi) : Completes r body hi := by
  have hs : s.state ≠ .awaitingSync := by simp [hc.state]
  obtain ⟨hidx, -, -⟩ := h.frame hs
  have hlen := h.len (.inr hc.state)
  refine ⟨h.state.trans hc.state, by rw [hidx, hlen, hc.idx], by rw [hidx, h.cfg]; exact hc.room, by rw [hlen, hc.length],
    hc.held.congr fun x _ hx => h.byteAt_eq hinv hs ?_⟩
  have hidx' := hc.idx
  have hlength := hc.length
  rw [List.length_append, List.length_singleton] at hx
  omega

/-- Both publish the same values. -/
theorem FrameEquiv.publishes {s r p : State} {b hi : Byte} {t : Nat} {body : List Byte} (h : FrameEquiv s r) (hinv : s.Inv)
    (hc : Completes s body hi) (hp : publishFrame (resync (stored s b t)) = .ok p) :
    ∃ q, publishFrame (resync (stored r b t)) = .ok q ∧ FrameEquiv p q := by
  have hs : s.state ≠ .awaitingSync := by simp [hc.state]
  obtain ⟨hidx, -, -⟩ := h.frame hs
  obtain ⟨hch, -⟩ := h.snapshot
  have hat : ∀ a, a < 3 + s.len.toNat →
      byteAt (resync (stored r b t)) a = byteAt (resync (stored s b t)) a := by
    intro a ha
    have hlt : a < s.idx := by rw [hc.idx]; omega
    rw [byteAt_resync, byteAt_resync, byteAt_stored_other s b t (by omega), byteAt_stored_other r b t (by omega)]
    exact h.byteAt_eq hinv hs hlt
  refine ⟨_, publishFrame_congr (s := resync (stored s b t)) (m := resync (stored r b t)) h.cfg
    (h.len (.inr hc.state)) hch hat hp, ?_⟩
  obtain ⟨us, status, -, -, rfl⟩ := publishFrame_eq_ok.mp hp
  exact { h with state := rfl, snapshot := ⟨rfl, rfl, rfl, rfl⟩, frame := fun h => absurd rfl h, len := nofun }

theorem FrameEquiv.respond {s r : State} (h : FrameEquiv s r) (x : Result) : FrameEquiv (respond s x) (respond r x) :=
  { h with out := rfl }

/-- BYTE does the same in both. -/
theorem FrameEquiv.byteStep {s r s' : State} {b : Byte} {t : Nat} (h : FrameEquiv s r) (hinv : s.Inv)
    (hstep : ByteStep s b t s') : ∃ r', ByteStep r b t r' ∧ FrameEquiv s' r' := by
  have hroom : s.state ≠ .awaitingSync → r.idx = s.idx ∧ (s.idx < s.cfg.bufCap → r.idx < r.cfg.bufCap) := by
    intro hs
    obtain ⟨hidx, -, -⟩ := h.frame hs
    exact ⟨hidx, by rw [hidx, h.cfg]; exact id⟩
  cases hstep with
  | drop hs hb => exact ⟨_, .drop (h.state.trans hs) hb, h.respond _⟩
  | sync hs hb =>
    refine ⟨_, .sync (h.state.trans hs) hb, { h with out := rfl, state := rfl, frame := fun _ => ?_, len := nofun }⟩
    refine ⟨rfl, congrArg (portTime · t) h.cfg, fun a ha => ?_⟩
    obtain rfl : a = 0 := Nat.lt_one_iff.mp ha
    exact (Memory.read_write_same _ _ _).trans (Memory.read_write_same _ _ _).symm
  | status hs room =>
    have hs' : s.state ≠ .awaitingSync := by simp [hs]
    exact ⟨_, .status (h.state.trans hs) ((hroom hs').2 room), h.advanced hs' b t nofun⟩
  | oversize hs room hlen =>
    obtain ⟨hl, hcrc⟩ := h.counters
    exact ⟨_, .oversize (h.state.trans hs) ((hroom (by simp [hs])).2 room) (by rw [h.cfg]; exact hlen),
      { h with out := rfl, state := rfl, counters := ⟨congrArg countOne hl, hcrc⟩, frame := fun h => absurd rfl h,
               len := nofun }⟩
  | length hs room hlen =>
    have hs' : s.state ≠ .awaitingSync := by simp [hs]
    exact ⟨_, .length (h.state.trans hs) ((hroom hs').2 room) (by rw [h.cfg]; exact hlen),
      { h with out := rfl, state := rfl, frame := fun _ => h.stored_frame hs' b t, len := fun _ => rfl }⟩
  | payload hs room =>
    have hs' : s.state ≠ .awaitingSync := by simp [hs]
    obtain ⟨hidx, hr⟩ := hroom hs'
    have hlen := h.len (.inl hs)
    have hstep := ByteStep.payload (b := b) (t := t) (h.state.trans hs) (hr room)
    rw [hidx, hlen] at hstep
    exact ⟨_, hstep, h.advanced hs' b t fun _ => hlen⟩
  | checksumHigh hs room hne =>
    have hs' : s.state ≠ .awaitingSync := by simp [hs]
    obtain ⟨hidx, hr⟩ := hroom hs'
    have hlen := h.len (.inr hs)
    exact ⟨_, .checksumHigh (h.state.trans hs) (hr room) (by rw [hidx, hlen]; exact hne), h.advanced hs' b t fun _ => hlen⟩
  | publish hc hcrc hp =>
    obtain ⟨q, hq, hequiv⟩ := h.publishes hinv hc hp
    exact ⟨_, .publish (h.completes hinv hc) hcrc hq, hequiv.respond _⟩
  | discard hc hcrc =>
    obtain ⟨hl, hcount⟩ := h.counters
    exact ⟨_, .discard (h.completes hinv hc) hcrc,
      { h with out := rfl, state := rfl, counters := ⟨hl, congrArg countOne hcount⟩, frame := fun h => absurd rfl h,
               len := nofun }⟩

/-- POLL does the same in both: the timestamp is read inside a frame only. -/
theorem FrameEquiv.pollOp {s r : State} (h : FrameEquiv s r) (now : Nat) : FrameEquiv (pollOp s now) (pollOp r now) := by
  obtain ⟨hch, hfs, hvalid, hpub⟩ := h.snapshot
  have hstale : s.state ≠ .awaitingSync → stale r now = stale s now := by
    intro hs
    obtain ⟨-, ht, -⟩ := h.frame hs
    simp only [stale, h.cfg, ht]
  rcases pollOp_cases s now with ⟨hp, hend⟩ | ⟨hp, hs, hst, hend⟩ | ⟨hp, hidle, hend⟩ <;> rw [hend]
  · rw [pollOp_of_pub (by rw [hpub]; exact hp)]
    exact { h with out := by rw [reportStatus_out, reportStatus_out, hpub], snapshot := ⟨hch, hfs, hvalid, rfl⟩ }
  · rw [pollOp_of_stale (hpub.trans hp) (by rw [h.state]; exact hs) ((hstale hs).trans hst)]
    exact { h with out := rfl, state := rfl, frame := fun h => absurd rfl h, len := nofun }
  · have hidle' : r.state = .awaitingSync ∨ stale r now = false := by
      by_cases hs : s.state = .awaitingSync
      · exact .inl (h.state.trans hs)
      · exact .inr ((hstale hs).trans (hidle.resolve_left hs))
    rw [pollOp_of_idle (hpub.trans hp) hidle']
    exact h.respond _

/-- A reset leaves nothing of the difference but the draw of the buffer. -/
theorem FrameEquiv.applyReset {s r : State} (h : FrameEquiv s r) : FrameEquiv (applyReset s) (applyReset r) where
  cfg := h.cfg
  booted := rfl
  env := h.env
  out := rfl
  state := rfl
  snapshot := ⟨by rw [applyReset_ch, applyReset_ch, h.cfg], rfl, rfl, rfl⟩
  counters := ⟨rfl, rfl⟩
  frame := fun h => absurd rfl h
  len := nofun

/-- Every operation the environment presents does the same in both. -/
theorem FrameEquiv.exec {i : Instr} {s r s' : State} (h : FrameEquiv s r) (hinv : s.Inv) (hi : i.presented = some i)
    (hexec : exec i s = .next s') : ∃ r', exec i r = .next r' ∧ FrameEquiv s' r' := by
  rcases presented_cases hi with ⟨b, t, rfl⟩ | ⟨now, rfl⟩ | ⟨k, rfl⟩ | ⟨attached, rfl⟩
  · obtain ⟨hb, hstep⟩ := exec_byte_eq_next_iff.mp hexec
    obtain ⟨r', hstep', hequiv⟩ := h.byteStep hinv hstep
    exact ⟨r', exec_byte_eq_next_iff.mpr ⟨h.booted.trans hb, hstep'⟩, hequiv⟩
  · obtain ⟨hb, rfl⟩ := exec_poll_eq_next.mp hexec
    exact ⟨_, exec_poll_eq_next.mpr ⟨h.booted.trans hb, rfl⟩, h.pollOp now⟩
  · obtain ⟨hch, -⟩ := h.snapshot
    refine ⟨_, exec_read_congr h.cfg h.booted hch hexec, ?_⟩
    have hequiv := h.respond s'.out
    rwa [← exec_read_frame hexec] at hequiv
  · obtain rfl := exec_init_eq_next.mp hexec
    exact ⟨_, rfl, h.applyReset.respond _⟩

/-- Whether an operation is refused depends on the flag of R231 only. -/
theorem exec_refused_congr {i : Instr} {s r : State} {why : Refusal} (hb : r.booted = s.booted)
    (hi : i.presented = some i) (h : exec i s = .refused why) : exec i r = .refused why := by
  obtain ⟨hs, rfl⟩ := exec_presented_eq_refused hi h
  have hr := hb.trans hs
  rcases presented_cases hi with ⟨b, t, rfl⟩ | ⟨now, rfl⟩ | ⟨k, rfl⟩ | ⟨attached, rfl⟩
  · exact whenBooted_of_not_booted hr
  · exact whenBooted_of_not_booted hr
  · exact whenBooted_of_not_booted hr
  · cases h

theorem FrameEquiv.taken {s r : State} (h : FrameEquiv s r) : FrameEquiv (taken s) (taken r) :=
  { h with env := congrArg (fun e => (nextEvent e).2) h.env }

/-- Settles O58: both take the same event, and each kind of event keeps `FrameEquiv`. -/
theorem leftoverFrameIsNeverRead : Obligations.LeftoverFrameIsNeverRead := by
  intro s r hs _ h
  have htaken := h.taken
  have hevent : (nextEvent r.env).1 = (nextEvent s.env).1 := congrArg (fun e => (nextEvent e).1) h.env
  constructor
  · intro s' hstep
    rcases step_eq_next.mp hstep with ⟨hidle, rfl⟩ | ⟨hreset, rfl⟩ | ⟨q, i, hq, hi, hexec⟩
    · exact ⟨_, step_eq_next.mpr (.inl ⟨hevent.trans hidle, rfl⟩), htaken⟩
    · exact ⟨_, step_eq_next.mpr (.inr (.inl ⟨hevent.trans hreset, rfl⟩)), htaken.applyReset⟩
    · obtain ⟨r', hexec', hequiv⟩ := htaken.exec hs.taken (presented_of_decode hi) hexec
      exact ⟨r', step_eq_next.mpr (.inr (.inr ⟨q, i, hevent.trans hq, hi, hexec'⟩)), hequiv⟩
  · intro why hstep
    obtain ⟨q, hq, hcause⟩ := step_eq_refused.mp hstep
    refine step_eq_refused.mpr ⟨q, hevent.trans hq, hcause.imp_right ?_⟩
    rintro ⟨i, hi, hexec⟩
    exact ⟨i, hi, exec_refused_congr htaken.booted (presented_of_decode hi) hexec⟩

end Sys2Proof.Machine
end
